-- ==== Sys2Proof/Word.lean ====
section
/-! DEFINITION. The word types of the block (spec/00_scope.md R7, R8; spec/30_encoding.md R78). -/

namespace Sys2Proof

/-- One 8-bit register value or bus byte (R7, R51). -/
abbrev Byte := BitVec 8

/-- The 16-bit address operand of a command or codec function, `ADDR16` (R8). -/
abbrev Addr16 := BitVec 16

/-- A short address: a 6-bit register index (R7, R50). -/
abbrev ShortAddr := BitVec 6

/-- A long address: a 10-bit register index (R7, R50). -/
abbrev LongAddr := BitVec 10

/-- A command word of the command port (R78). -/
abbrev CommandWord := BitVec 32

/-- An operation code, bits [31:28] of a command word (R78, R79). -/
abbrev Opcode := BitVec 4

end Sys2Proof
end

