-- ==== Sys2Proof/Config.lean ====
section
/-! DEFINITION. What an instance fixes (spec/00_scope.md R7, R9; spec/10_state.md R38) and the free values: what the
spec leaves unspecified and nothing in Lean can evaluate (spec/10_state.md R29, R35, R40; spec/93 U7, U13). -/

namespace Sys2Proof

/-- An addressing scheme, and the chip address space it reaches (R9, R50). -/
inductive Scheme where
  | short
  | long
  deriving DecidableEq, Repr, Inhabited

/-- The parameters of an instance of the block (R9, R38). -/
structure Params where
  /-- `BB_SCHEME`: the scheme of the baseband-control register. -/
  bbScheme : Scheme
  /-- `BB_ADDR`: its address, masked per scheme by the codec. -/
  bbAddr : Addr16
  /-- `BB_DISABLE`: the value that suspends frame acceptance. -/
  bbDisable : Byte
  /-- `BB_ENABLE`: the value that re-enables frame acceptance. -/
  bbEnable : Byte
  /-- `FIFO_LEN_ADDR`: the FIFO length register. -/
  fifoLenAddr : LongAddr
  /-- `FIFO_DATA_BASE`: the first FIFO data register. -/
  fifoDataBase : LongAddr
  deriving DecidableEq, Repr, Inhabited

namespace Config

/-- `FRAME_BUF_SIZE` (R7): the most data bytes of a frame. -/
def frameBufSize : Nat := 127

/-- `LEN_SENTINEL` (R7): the length is not yet known. -/
def lenSentinel : Byte := 0xFF#8

/-- The parameters of the instance that `State.reset` describes. DESIGN CHOICE (log entry 4): the spec leaves them
open (D12), so nothing is known of them. -/
opaque params : Params

/-! The free values (DESIGN CHOICE, log entries 3 and 5). The first argument is the number of the draw. -/

/-- `h.frame_buffer[i]` at reset. -/
opaque freeFrameByte : Nat → Nat → Byte

/-- `h.link_quality` at reset. -/
opaque freeLinkQuality : Nat → Byte

/-- `h.signal_strength` at reset. -/
opaque freeSignalStrength : Nat → Byte

/-- `h.txbuf[i]` at reset, and after an issue at an index the transaction does not transmit. -/
opaque freeTxByte : Nat → Nat → Byte

/-- `h.txlen` at reset. -/
opaque freeTxLen : Nat → BitVec 2

/-- `h.rxn` at reset. -/
opaque freeRxn : Nat → BitVec 1

/-- `h.pend_op` at reset. -/
opaque freePendOp : Nat → Opcode

/-- `h.rx_code` at reset. -/
opaque freeRxCode : Nat → BitVec 3

/-- `h.rx_err_phase` at reset. -/
opaque freeRxErrPhase : Nat → BitVec 3

/-- `h.rx_enable_ok` at reset. -/
opaque freeRxEnableOk : Nat → Bool

end Config

end Sys2Proof
end

