-- ==== Sys2Proof/Syntax.lean ====
section
/-! DEFINITION. The instructions: one constructor for each row of spec/opcode_table.json, that is the command words of
the command port (spec/30_encoding.md R78 to R80) and the bus frames of the transport port (R71, R72); and the
assembler's lines (R82). -/

namespace Sys2Proof

/-- The rows of the opcode table. A field a row ignores (`RSV` always; `VALUE` or `ADDR16` where the operation does not
use it, R78) is no operand. -/
inductive Instr where
  /-- WS: `write_short(addr, value)` (R79, R122). -/
  | ws (addr : Addr16) (value : Byte)
  /-- RS: `read_short(addr)` (R79, R123). -/
  | rs (addr : Addr16)
  /-- WL: `write_long(addr, value)` (R79, R124). -/
  | wl (addr : Addr16) (value : Byte)
  /-- RL: `read_long(addr)` (R79, R125). -/
  | rl (addr : Addr16)
  /-- RX: `receive_frame` (R79, R141). -/
  | rx
  /-- The illegal command word with OP 0x0 (R80). -/
  | reservedOp0
  /-- An illegal command word with OP 0x6 or 0x7 (R80). -/
  | reservedOp6to7 (op : Opcode)
  /-- An illegal command word with OP 0x8 to 0xF (R80). -/
  | reservedOp8toF (op : Opcode)
  /-- The bus frame "short write" (R71, R72, R101). -/
  | frameShortWrite (addr : ShortAddr) (value : Byte)
  /-- The bus frame "short read": the header; one byte is received after it (R71, R72, R102). -/
  | frameShortRead (addr : ShortAddr)
  /-- The bus frame "long write" (R72, R73, R74, R103). -/
  | frameLongWrite (addr : LongAddr) (value : Byte)
  /-- The bus frame "long read": the header; one byte is received after it (R72, R73, R74, R104). -/
  | frameLongRead (addr : LongAddr)
  deriving DecidableEq, Repr

/-- What carries an instruction: a word at the command port, or the bytes of a bus frame in transmission order. -/
inductive Packet where
  | word (w : CommandWord)
  | frame (bytes : List Byte)
  deriving DecidableEq, Repr

/-- A line of the assembler (R82), its operands the numbers written. -/
inductive AsmLine where
  | ws (addr value : Nat)
  | rs (addr : Nat)
  | wl (addr value : Nat)
  | rl (addr : Nat)
  | rx
  deriving DecidableEq, Repr

/-- The instruction is a bus frame (not a command word). -/
def Instr.isFrame : Instr → Bool
  | .ws _ _ | .rs _ | .wl _ _ | .rl _ | .rx | .reservedOp0 | .reservedOp6to7 _ | .reservedOp8toF _ => false
  | .frameShortWrite _ _ | .frameShortRead _ | .frameLongWrite _ _ | .frameLongRead _ => true

end Sys2Proof
end

