-- ==== Sys2Proof/WellFormed.lean ====
section
/-! DEFINITION. Which terms of `Instr` are instructions. The widths of addresses and values are in the types
(spec/00_scope.md R7, R8); what is left is that an illegal command word's OP is one of its row's
(spec/30_encoding.md R79, R80). -/

namespace Sys2Proof

/-- The operands are ones the instruction's row of the opcode table can carry. -/
def Instr.wellFormed : Instr → Bool
  | .ws _ _ | .rs _ | .wl _ _ | .rl _ | .rx | .reservedOp0 => true
  | .reservedOp6to7 op => op == 0x6#4 || op == 0x7#4
  | .reservedOp8toF op => decide (0x8#4 ≤ op)
  | .frameShortWrite _ _ | .frameShortRead _ | .frameLongWrite _ _ | .frameLongRead _ => true

/-- The numbers of an assembler line are in range: an address 0 to 0xFFFF, a value 0 to 0xFF (R82). -/
def AsmLine.wellFormed : AsmLine → Bool
  | .ws a v | .wl a v => decide (a ≤ 0xFFFF) && decide (v ≤ 0xFF)
  | .rs a | .rl a => decide (a ≤ 0xFFFF)
  | .rx => true

end Sys2Proof
end

