-- ==== Sys2Proof/Decode.lean ====
section
/-! DEFINITION. Decoding a command word (spec/30_encoding.md R78 to R81) and a bus frame (R71 to R76), the encoder
written from the same bit tables, the assembler's words (R82), and the opcode table's numbering of both. -/

namespace Sys2Proof

/-! ## Command words -/

/-- `OP`, bits [31:28] (R78). -/
def wordOp (w : CommandWord) : Opcode := w.extractLsb' 28 4

/-- `ADDR16`, bits [23:8] (R78). -/
def wordAddr (w : CommandWord) : Addr16 := w.extractLsb' 8 16

/-- `VALUE`, bits [7:0] (R78). -/
def wordValue (w : CommandWord) : Byte := w.extractLsb' 0 8

/-- Decode a command word: every one of the 2^32 words is a row of the table, legal or illegal (R79, R80); `RSV` and
the fields an operation does not use are ignored (R78). -/
def decodeCommand (w : CommandWord) : Instr :=
  if wordOp w = 0x1#4 then .ws (wordAddr w) (wordValue w)
  else if wordOp w = 0x2#4 then .rs (wordAddr w)
  else if wordOp w = 0x3#4 then .wl (wordAddr w) (wordValue w)
  else if wordOp w = 0x4#4 then .rl (wordAddr w)
  else if wordOp w = 0x5#4 then .rx
  else if wordOp w = 0x0#4 then .reservedOp0
  else if wordOp w = 0x6#4 ∨ wordOp w = 0x7#4 then .reservedOp6to7 (wordOp w)
  else .reservedOp8toF (wordOp w)

/-! ## Bus frames -/

/-- Why bytes are no bus frame of the table. -/
inductive FrameError where
  /-- No byte at all. -/
  | noHeader
  /-- A long header byte 0 with no byte 1 (R73, R75). -/
  | truncatedHeader
  /-- Long header byte 1 with bits [3:0] not 0 (R76, U3). -/
  | reservedBits
  /-- A write header with no value byte (R75). -/
  | missingValue
  /-- More bytes than the header's form has (R72). -/
  | extraBytes
  deriving DecidableEq, Repr

/-- What follows the header of a write: exactly the value byte (R72). -/
def decodeWriteTail (mk : Byte → Instr) : List Byte → Except FrameError Instr
  | [] => .error .missingValue
  | [v] => .ok (mk v)
  | _ :: _ :: _ => .error .extraBytes

/-- What follows the header of a read on the bus: nothing is transmitted (R72). -/
def decodeReadTail (i : Instr) : List Byte → Except FrameError Instr
  | [] => .ok i
  | _ :: _ => .error .extraBytes

/-- A long address from its two fields, `{A[9:3], A[2:0]}` (R73, R74). -/
def longAddrOf (hi : BitVec 7) (lo : BitVec 3) : LongAddr := hi ++ lo

/-- The rest of a long frame after header byte 0: `W` is bit 4 of byte 1, its bits [3:0] must be 0 (R74 to R76). -/
def decodeLongTail (hi : BitVec 7) : List Byte → Except FrameError Instr
  | [] => .error .truncatedHeader
  | b1 :: rest =>
    if b1.extractLsb' 0 4 ≠ 0#4 then .error .reservedBits
    else if b1.getLsbD 4 then decodeWriteTail (.frameLongWrite (longAddrOf hi (b1.extractLsb' 5 3))) rest
    else decodeReadTail (.frameLongRead (longAddrOf hi (b1.extractLsb' 5 3))) rest

/-- Decode a bus frame from its bytes in transmission order: bit 7 of byte 0 is the scheme, the direction is bit 0 of a
short header or bit 4 of long byte 1, and a write has one more byte (R75). -/
def decodeFrame : List Byte → Except FrameError Instr
  | [] => .error .noHeader
  | b0 :: rest =>
    if b0.getLsbD 7 then decodeLongTail (b0.extractLsb' 0 7) rest
    else if b0.getLsbD 0 then decodeWriteTail (.frameShortWrite (b0.extractLsb' 1 6)) rest
    else decodeReadTail (.frameShortRead (b0.extractLsb' 1 6)) rest

/-- Decode what a port carries. -/
def decode : Packet → Except FrameError Instr
  | .word w => .ok (decodeCommand w)
  | .frame bytes => decodeFrame bytes

/-! ## The encoder -/

/-- A command word from its fields (R78). -/
def commandWord (op : Opcode) (rsv : BitVec 4) (addr : Addr16) (value : Byte) : CommandWord :=
  op ++ rsv ++ addr ++ value

/-- The short header: `{0, A[5:0], W}` (R71). -/
def shortHeader (addr : ShortAddr) (write : BitVec 1) : Byte := 0#1 ++ addr ++ write

/-- Long header byte 0: `{1, A[9:3]}` (R73). -/
def longHeader0 (addr : LongAddr) : Byte := 1#1 ++ addr.extractLsb' 3 7

/-- Long header byte 1: `{A[2:0], W, 0000}` (R74). -/
def longHeader1 (addr : LongAddr) (write : BitVec 1) : Byte := addr.extractLsb' 0 3 ++ write ++ 0#4

/-- The encoding of an instruction; unused fields are 0 (R72, R78, R82). -/
def encode : Instr → Packet
  | .ws a v => .word (commandWord 0x1#4 0x0#4 a v)
  | .rs a => .word (commandWord 0x2#4 0x0#4 a 0#8)
  | .wl a v => .word (commandWord 0x3#4 0x0#4 a v)
  | .rl a => .word (commandWord 0x4#4 0x0#4 a 0#8)
  | .rx => .word (commandWord 0x5#4 0x0#4 0#16 0#8)
  | .reservedOp0 => .word (commandWord 0x0#4 0x0#4 0#16 0#8)
  | .reservedOp6to7 op => .word (commandWord op 0x0#4 0#16 0#8)
  | .reservedOp8toF op => .word (commandWord op 0x0#4 0#16 0#8)
  | .frameShortWrite a v => .frame [shortHeader a 1#1, v]
  | .frameShortRead a => .frame [shortHeader a 0#1]
  | .frameLongWrite a v => .frame [longHeader0 a, longHeader1 a 1#1, v]
  | .frameLongRead a => .frame [longHeader0 a, longHeader1 a 0#1]

/-- The operation code of a command (R79); of a bus frame, the opcode of the command that puts such a frame on the bus
(R122 to R125). -/
def Instr.op : Instr → Opcode
  | .ws _ _ | .frameShortWrite _ _ => 0x1#4
  | .rs _ | .frameShortRead _ => 0x2#4
  | .wl _ _ | .frameLongWrite _ _ => 0x3#4
  | .rl _ | .frameLongRead _ => 0x4#4
  | .rx => 0x5#4
  | .reservedOp0 => 0x0#4
  | .reservedOp6to7 op => op
  | .reservedOp8toF op => op

/-- How many bytes are received after a bus frame (R72). -/
def Instr.receiveCount : Instr → BitVec 1
  | .frameShortRead _ | .frameLongRead _ => 1#1
  | .ws _ _ | .rs _ | .wl _ _ | .rl _ | .rx | .reservedOp0 | .reservedOp6to7 _ | .reservedOp8toF _
  | .frameShortWrite _ _ | .frameLongWrite _ _ => 0#1

/-- The bits of `w` that the row of its `OP` reads; every other bit is ignored (R78, R80). -/
def significantBits (w : CommandWord) : CommandWord :=
  if wordOp w = 0x1#4 ∨ wordOp w = 0x3#4 then 0xF0FFFFFF#32
  else if wordOp w = 0x2#4 ∨ wordOp w = 0x4#4 then 0xF0FFFF00#32
  else 0xF0000000#32

/-! ## The assembler (R82) -/

/-- The command word of an assembler line, if its numbers are in range: the formulas of R82. -/
def assemble (l : AsmLine) : Option CommandWord :=
  if l.wellFormed then
    some (match l with
      | .ws a v => 0x10000000#32 ||| (BitVec.ofNat 32 a <<< 8) ||| BitVec.ofNat 32 v
      | .rs a => 0x20000000#32 ||| (BitVec.ofNat 32 a <<< 8)
      | .wl a v => 0x30000000#32 ||| (BitVec.ofNat 32 a <<< 8) ||| BitVec.ofNat 32 v
      | .rl a => 0x40000000#32 ||| (BitVec.ofNat 32 a <<< 8)
      | .rx => 0x50000000#32)
  else none

/-- The value of a digit, hexadecimal ones in either case. -/
def digitValue (c : Char) : Option Nat :=
  let n := c.toNat
  if 48 ≤ n ∧ n ≤ 57 then some (n - 48)
  else if 65 ≤ n ∧ n ≤ 70 then some (n - 55)
  else if 97 ≤ n ∧ n ≤ 102 then some (n - 87)
  else none

/-- The number a row of digits continues `acc` to. -/
def readDigits (base acc : Nat) : List Char → Option Nat
  | [] => some acc
  | c :: cs =>
    match digitValue c with
    | some d => if d < base then readDigits base (base * acc + d) cs else none
    | none => none

/-- A number in decimal or `0x` hexadecimal. -/
def readNumber : List Char → Option Nat
  | [] => none
  | ['0', 'x'] => none
  | '0' :: 'x' :: ds => readDigits 16 0 ds
  | ds => readDigits 10 0 ds

/-- An item that is complete. -/
def itemOf (acc : List Char) : List (List Char) := if acc = [] then [] else [acc]

/-- The items of a line: spaces separate them and a comma is one of its own (log entry 19). -/
def lineItems (acc : List Char) : List Char → List (List Char)
  | [] => itemOf acc
  | c :: cs =>
    if c = ' ' then itemOf acc ++ lineItems [] cs
    else if c = ',' then itemOf acc ++ [[',']] ++ lineItems [] cs
    else lineItems (acc ++ [c]) cs

/-- The assembler line a text is. -/
def readLine (text : List Char) : Option AsmLine :=
  match lineItems [] text with
  | [['W', 'S'], a, [','], v] => (readNumber a).bind fun x => (readNumber v).map fun y => .ws x y
  | [['R', 'S'], a] => (readNumber a).map .rs
  | [['W', 'L'], a, [','], v] => (readNumber a).bind fun x => (readNumber v).map fun y => .wl x y
  | [['R', 'L'], a] => (readNumber a).map .rl
  | [['R', 'X']] => some .rx
  | _ => none

/-- The command word of a text. -/
def assembleText (text : List Char) : Option CommandWord := (readLine text).bind assemble

/-! ## The opcode table's numbering -/

/-- The bytes of a bus-frame row of `nbits` bits: the row is one number whose most significant byte is transmitted first
(the table's notes; spec/20_memory.md R53). -/
def tableFrameBytes (nbits w : Nat) : List Byte :=
  if nbits = 8 then [BitVec.ofNat 8 w]
  else if nbits = 16 then [BitVec.ofNat 8 (w / 256), BitVec.ofNat 8 w]
  else [BitVec.ofNat 8 (w / 65536), BitVec.ofNat 8 (w / 256), BitVec.ofNat 8 w]

/-- What carries a row of the table: up to 24 bits a bus frame, 32 bits a command word (log entry 13). -/
def tablePacket (nbits w : Nat) : Packet :=
  if nbits ≤ 24 then .frame (tableFrameBytes nbits w) else .word (BitVec.ofNat 32 w)

/-- The instruction the decoder reads from a row's bits (log entry 13). -/
def decodeTableWord (nbits w : Nat) : Option Instr :=
  match decode (tablePacket nbits w) with
  | .ok i => some i
  | .error _ => none

end Sys2Proof
end

