-- ==== Sys2Proof/Machine/State.lean ====
section
/-! DEFINITION. The state of the block and of its ports, and the state after reset (spec/10_state.md R21, R22, R38, R40;
spec/60_exceptions.md R181, R182, R195, R196; spec/70_reset_and_hazards.md R210). -/

namespace Sys2Proof.Machine

/-- `h.st`, the sequencing state (R22). -/
inductive St where
  | idle
  | regBusy
  | rxDisable
  | rxLen
  | rxData
  | rxLq
  | rxSs
  | rxEnable
  deriving DecidableEq, Repr

/-- A status of a response (R181); codes 5 to 7 are reserved and never emitted. -/
inductive Status where
  | ok
  | busError
  | busy
  | illegal
  | length
  deriving DecidableEq, Repr

/-- The block's fields, the source's transceiver handle (R21). -/
structure Handle where
  /-- `h.st` -/
  st : St
  /-- `h.idx`: the next FIFO data index in RX_DATA. -/
  idx : Byte
  /-- `h.in_progress`: a receive session is open. -/
  inProgress : Bool
  /-- `h.frame_length`: the length read, or 0xFF. -/
  frameLength : Byte
  /-- `h.frame_buffer[0..126]` -/
  frameBuffer : Vector Byte 127
  /-- `h.link_quality` -/
  linkQuality : Byte
  /-- `h.signal_strength` -/
  signalStrength : Byte
  /-- `h.txbuf[0..2]`: the scratch transmit buffer, `TXBUF_SIZE` bytes (R7). -/
  txbuf : Vector Byte 3
  /-- `h.txlen`: how many bytes of it the current transaction transmits. -/
  txlen : BitVec 2
  /-- `h.rxn`: how many bytes the current transaction receives. -/
  rxn : BitVec 1
  /-- `h.inflight`: a transaction is issued and its response not yet taken. -/
  inflight : Bool
  /-- `h.pend_op`: the command whose response is owed. -/
  pendOp : Opcode
  /-- `h.err`: the first error of the open session. -/
  err : Status
  /-- `h.err_phase`: the `h.st` code where it happened, 0 if none. -/
  errPhase : BitVec 3
  /-- `h.rx_code`: the status code of the last completed session. -/
  rxCode : BitVec 3
  /-- `h.rx_err_phase`: `h.err_phase` of the last completed session. -/
  rxErrPhase : BitVec 3
  /-- `h.rx_enable_ok`: its re-enable write succeeded. -/
  rxEnableOk : Bool
  deriving DecidableEq, Repr

/-- The transport's answer to a transaction, `(ok, rx)` (R196). -/
structure Answer where
  ok : Bool
  rx : Byte
  deriving DecidableEq, Repr

/-- A transaction as handed to the transport: the bytes to transmit and how many to receive (R195). -/
structure Transaction where
  bytes : List Byte
  rxn : BitVec 1
  deriving DecidableEq, Repr

/-- A record of the response channel (R182). -/
structure Response where
  op : Opcode
  status : Status
  data : Byte
  deriving DecidableEq, Repr

/-- What an access does to a chip register (R52). -/
inductive AccessKind where
  | write (value : Byte)
  | read
  deriving DecidableEq, Repr

/-- How an access ended (R196, R197): after a failure nothing is known of the register. -/
inductive AccessOutcome where
  | written
  | received (value : Byte)
  | failed
  deriving DecidableEq, Repr

/-- One access of a chip register, as a bus frame encodes it, and how it ended (R52, R62). A short address is widened
with zeros. -/
structure Access where
  space : Scheme
  addr : LongAddr
  kind : AccessKind
  outcome : AccessOutcome
  deriving DecidableEq, Repr

/-- One event the block's environment brings (R193, R194, R211; log entry 1). -/
inductive Input where
  /-- The client presents a command word. -/
  | command (w : CommandWord)
  /-- The transport answers the transaction in flight. -/
  | answer (a : Answer)
  /-- The client takes the oldest response of the channel. -/
  | takeResponse
  /-- The block is reset. -/
  | reset
  deriving DecidableEq, Repr

/-- The machine: the block's fields, its configuration, its ports, and the model's own fields. -/
structure State where
  /-- The block's fields. -/
  h : Handle
  /-- The parameters of the instance: no rule writes them (R38). -/
  params : Params
  /-- The events still to be taken, oldest first (log entry 1). -/
  inputs : List Input
  /-- The response channel: records emitted and not yet taken, oldest first (R182). -/
  responses : List Response
  /-- The model's own: the answer presented with the current event (log entry 6). -/
  answer : Option Answer
  /-- The model's own: the transactions handed to the transport, in order (log entry 7). -/
  bus : List Transaction
  /-- The model's own: the chip accesses answered so far, in order (log entry 7). -/
  accesses : List Access
  /-- The model's own: the number of the next draw of free values (log entry 3). -/
  draws : Nat
  deriving DecidableEq, Repr

/-- Why the machine stops. None of these can happen while the transport keeps R196 and the invariants of R36 hold. -/
inductive Fault where
  /-- Raised by the fetch and by a bus frame's meaning: the transport answers although no transaction is in flight,
  which R196 rules out. Safe: the machine stops where the spec gives no effect. -/
  | strayAnswer
  /-- Raised by the response step: a transaction is in flight while `h.st` is IDLE, which R36 rules out, and no
  response rule belongs to IDLE. Safe, as above. -/
  | answerWhileIdle
  /-- Raised by the RX_DATA response: a data byte at an index past 126, which R36 rules out; U6 calls it a buffer
  overflow. Safe, as above. -/
  | frameBufferIndex
  deriving DecidableEq, Repr

/-- Why a step has no meaning. -/
inductive Refusal where
  /-- Raised by a dispatch arm of an instruction that has no meaning yet (no arm of this model). Safe. -/
  | notModelled (mnemonic : String)
  /-- Raised by the fetch: the bytes of the transaction in flight are no bus frame of the opcode table, which the block
  never sends (R76, U3). Safe. -/
  | noBusFrame
  deriving DecidableEq, Repr

/-- The block's fields at reset (R40). A field R40 calls unspecified holds a free value of the given draw (log
entry 3). -/
def Handle.reset (draw : Nat) : Handle where
  st := .idle
  idx := 0#8
  inProgress := false
  frameLength := Config.lenSentinel
  frameBuffer := Vector.ofFn fun i => Config.freeFrameByte draw i.val
  linkQuality := Config.freeLinkQuality draw
  signalStrength := Config.freeSignalStrength draw
  txbuf := Vector.ofFn fun i => Config.freeTxByte draw i.val
  txlen := Config.freeTxLen draw
  rxn := Config.freeRxn draw
  inflight := false
  pendOp := Config.freePendOp draw
  err := .ok
  errPhase := 0#3
  rxCode := Config.freeRxCode draw
  rxErrPhase := Config.freeRxErrPhase draw
  rxEnableOk := Config.freeRxEnableOk draw

/-- An instance of the block with these parameters right after its first reset (R210, R38). -/
def State.resetFor (p : Params) : State where
  h := Handle.reset 0
  params := p
  inputs := []
  responses := []
  answer := none
  bus := []
  accesses := []
  draws := 1

/-- The machine right after reset: the instance is `Config.params`, of which nothing is known (log entry 4). -/
def State.reset : State := State.resetFor Config.params

end Sys2Proof.Machine
end

