-- ==== Sys2Proof/Machine/Codec.lean ====
section
/-! DEFINITION. The register codec (spec/40_codec.md R100 to R108) by the source's own formulas, and the chip-access
primitives made of it (spec/20_memory.md R52). All pure and total (R100). -/

namespace Sys2Proof.Machine

/-! ## Encoders -/

/-- `encode_short_write(a, v)` (R101). -/
def encodeShortWrite (a : Addr16) (v : Byte) : List Byte :=
  [(((a &&& 0x3F#16) <<< 1) ||| 0x01#16).setWidth 8, v]

/-- `encode_short_read_header(a)` (R102). -/
def encodeShortReadHeader (a : Addr16) : Byte :=
  ((a <<< 1) &&& 0x7E#16).setWidth 8

/-- `encode_long_write(a, v)` (R103). -/
def encodeLongWrite (a : Addr16) (v : Byte) : List Byte :=
  let m := a &&& 0x3FF#16
  [(((m >>> 3) &&& 0xFF#16) ||| 0x80#16).setWidth 8,
   ((((m &&& 0x7#16) <<< 5) ||| 0x10#16) &&& 0xF0#16).setWidth 8,
   v]

/-- `encode_long_read_header(a)` (R104). -/
def encodeLongReadHeader (a : Addr16) : List Byte :=
  [(((a >>> 3) &&& 0xFF#16) ||| 0x80#16).setWidth 8,
   (((a &&& 0x7#16) <<< 5) &&& 0xE0#16).setWidth 8]

/-! ## Decoders -/

/-- Decoding a read: the received byte, unchanged (R105). -/
def decodeRead (rx : Byte) : Byte := rx

/-- What a short header says (R107). -/
structure ShortHeader where
  scheme : BitVec 1
  addr : ShortAddr
  write : BitVec 1
  deriving DecidableEq, Repr

/-- Header decode, short (R107). -/
def decodeShortHeader (h : Byte) : ShortHeader where
  scheme := h.extractLsb' 7 1
  addr := ((h >>> 1) &&& 0x3F#8).setWidth 6
  write := h.extractLsb' 0 1

/-- What a long header says (R108). -/
structure LongHeader where
  scheme : BitVec 1
  addr : LongAddr
  write : BitVec 1
  zero : BitVec 4
  deriving DecidableEq, Repr

/-- Header decode, long (R108). -/
def decodeLongHeader (b0 b1 : Byte) : LongHeader where
  scheme := b0.extractLsb' 7 1
  addr := ((b0 &&& 0x7F#8).setWidth 10 <<< 3) ||| (b1 >>> 5).setWidth 10
  write := b1.extractLsb' 4 1
  zero := b1.extractLsb' 0 4

/-- The length of a header, known from its first byte (R75). -/
def headerLength (b0 : Byte) : Nat := if b0.getLsbD 7 then 2 else 1

/-! ## Chip-access primitives (R52) -/

/-- The transaction of `MemWrite(S, a, 1, v)`. -/
def memWrite (scheme : Scheme) (a : Addr16) (v : Byte) : Transaction :=
  match scheme with
  | .short => ⟨encodeShortWrite a v, 0#1⟩
  | .long => ⟨encodeLongWrite a v, 0#1⟩

/-- The transaction of `MemRead(S, a, 1)`. -/
def memRead (scheme : Scheme) (a : Addr16) : Transaction :=
  match scheme with
  | .short => ⟨[encodeShortReadHeader a], 1#1⟩
  | .long => ⟨encodeLongReadHeader a, 1#1⟩

end Sys2Proof.Machine
end

