-- ==== Sys2Proof/Machine/Flags.lean ====
section
/-! DEFINITION. The numeric codes of states and statuses (spec/10_state.md R22; spec/60_exceptions.md R181) and the error
flags of a session: the first error wins (R31, R188). -/

namespace Sys2Proof.Machine

/-- `code_of(st)` (R22). -/
def St.code : St → BitVec 3
  | .idle => 0#3
  | .regBusy => 1#3
  | .rxDisable => 2#3
  | .rxLen => 3#3
  | .rxData => 4#3
  | .rxLq => 5#3
  | .rxSs => 6#3
  | .rxEnable => 7#3

/-- The state is one of an open receive session (R36 item 2). -/
def St.inSession : St → Bool
  | .idle | .regBusy => false
  | .rxDisable | .rxLen | .rxData | .rxLq | .rxSs | .rxEnable => true

/-- The code of a status (R181). -/
def Status.code : Status → BitVec 3
  | .ok => 0#3
  | .busError => 1#3
  | .busy => 2#3
  | .illegal => 3#3
  | .length => 4#3

/-- Record an error of the open session and the state it happened in, unless an earlier one is recorded (R31, R188). -/
def Handle.recordError (h : Handle) (code : Status) : Handle :=
  if h.err = .ok then { h with err := code, errPhase := h.st.code } else h

/-- Clear the error flags at session start (R31, R141). -/
def Handle.clearError (h : Handle) : Handle := { h with err := .ok, errPhase := 0#3 }

/-- The status of a register command's response (R121). -/
def answerStatus (a : Answer) : Status := if a.ok then .ok else .busError

/-- The data of a register command's response: the register value of a read that succeeded, else 0x00 (R105, R121,
R182). -/
def answerData (rxn : BitVec 1) (a : Answer) : Byte :=
  if a.ok ∧ rxn = 1#1 then decodeRead a.rx else 0x00#8

end Sys2Proof.Machine
end

