-- ==== Sys2Proof/Machine/Operands.lean ====
section
/-! DEFINITION. The operands of the sequencer's transactions: the baseband-control write (spec/42_frame_receiver.md R158)
and the FIFO addresses (R152, spec/20_memory.md R57). Each is a 16-bit codec operand: the codec masks it (R8). -/

namespace Sys2Proof.Machine

/-- `bb_write(v)`: the write of `v` to the baseband-control register (R158). -/
def bbWrite (p : Params) (v : Byte) : Transaction := memWrite p.bbScheme p.bbAddr v

/-- `rd(x)`: the long read of address `x`; the codec keeps `x[9:0]` (R142, R152). -/
def fifoRead (x : Addr16) : Transaction := memRead .long x

/-- `FIFO_LEN_ADDR` as a codec operand. -/
def fifoLenAddr (p : Params) : Addr16 := p.fifoLenAddr.setWidth 16

/-- `FIFO_DATA_BASE + i` as a codec operand, a sum without overflow (R152). -/
def fifoDataAddr (p : Params) (i : Byte) : Addr16 := p.fifoDataBase.setWidth 16 + i.setWidth 16

/-- `FIFO_DATA_BASE + n + 1`: the signal-strength byte of a frame of length `n` (R147, R152). -/
def fifoSsAddr (p : Params) (n : Byte) : Addr16 := fifoDataAddr p n + 1#16

end Sys2Proof.Machine
end

