-- ==== Sys2Proof/Machine/Ops.lean ====
section
/-! DEFINITION. The named operations of the block: emitting a response (spec/60_exceptions.md R182), issuing a
transaction (R195), accepting or rejecting a command (spec/41_register_ops.md R120), taking a transport's answer (R196),
the failure path of a session and the return from it (R186, R187), and reset (R211). -/

namespace Sys2Proof.Machine

/-! ## Responses -/

/-- `respond(status, data)` with the operation it answers (R182). -/
def respond (op : Opcode) (status : Status) (data : Byte) (s : State) : State :=
  { s with responses := s.responses ++ [⟨op, status, data⟩] }

/-- The response owed to the accepted command (R182). -/
def respondOwed (status : Status) (data : Byte) (s : State) : State := respond s.h.pendOp status data s

/-- The client takes the oldest response, if there is one (R182, R193). -/
def clientTakes (s : State) : State := { s with responses := s.responses.tail }

/-! ## Transactions -/

/-- Byte `i` of the scratch buffer after an issue: the transaction's byte, or past its end a free value (R29, R195; log
entry 5). -/
def txByte (tx : List Byte) (draw i : Nat) : Byte := tx[i]?.getD (Config.freeTxByte draw i)

/-- The scratch buffer after an issue (R195). -/
def txBuffer (tx : List Byte) (draw : Nat) : Vector Byte 3 := #v[txByte tx draw 0, txByte tx draw 1, txByte tx draw 2]

/-- `issue(tx, rxn)`: write the transaction fields and hand the transaction to the transport (R195). -/
def issue (x : Transaction) (s : State) : State :=
  { s with
    h := { s.h with
      txbuf := txBuffer x.bytes s.draws
      txlen := BitVec.ofNat 2 x.bytes.length
      rxn := x.rxn
      inflight := true }
    bus := s.bus ++ [x]
    draws := s.draws + 1 }

/-- The bytes of the current transaction, `h.txbuf[0..h.txlen-1]` in transmission order (R29, R195). -/
def Handle.txBytes (h : Handle) : List Byte := h.txbuf.toList.take h.txlen.toNat

/-- How the access of a transaction ended (R105, R196, R197). -/
def accessOutcome (kind : AccessKind) (a : Answer) : AccessOutcome :=
  match a.ok, kind with
  | false, _ => .failed
  | true, .write _ => .written
  | true, .read => .received (decodeRead a.rx)

/-- The part of an answer's step that belongs to the transaction: it is over, and the access it made is recorded (R196,
R52; log entry 7). -/
def finishTransaction (space : Scheme) (addr : LongAddr) (kind : AccessKind) (a : Answer) (s : State) : State :=
  { s with
    h := { s.h with inflight := false }
    answer := none
    accesses := s.accesses ++ [⟨space, addr, kind, accessOutcome kind a⟩] }

/-! ## Commands -/

/-- A legal command word of opcode `op`: BUSY unless the block is IDLE, else what its acceptance does (R120). -/
def acceptCommand (op : Opcode) (accepted : State) (s : State) : State :=
  if s.h.st = .idle then accepted else respond op .busy 0x00#8 s

/-- The acceptance step of a register command (R121). -/
def startRegister (op : Opcode) (x : Transaction) (s : State) : State :=
  issue x { s with h := { s.h with pendOp := op, st := .regBusy } }

/-- An illegal command word: one response, whatever `h.st`, and nothing else (R80, R120). -/
def rejectIllegal (op : Opcode) (s : State) : State := respond op .illegal 0x00#8 s

/-! ## The failure path of a session and the return from it (R186, R187) -/

/-- `to_enable()`: enter RX_ENABLE and issue the re-enable write (R142, R149). -/
def toEnable (s : State) : State :=
  issue (bbWrite s.params s.params.bbEnable) { s with h := { s.h with st := .rxEnable } }

/-- `fail_session(code)`: keep the first error and its state, then clean up (R142, R186). -/
def failSession (code : Status) (s : State) : State := toEnable { s with h := s.h.recordError code }

/-- The fields at the end of a session whose re-enable write answered `ok` (R150). -/
def Handle.completed (h : Handle) (ok : Bool) : Handle :=
  let r := if ok then h else h.recordError .busError
  { r with
    rxEnableOk := ok
    rxCode := r.err.code
    rxErrPhase := r.errPhase
    inProgress := false
    st := .idle }

/-- The end of a session and its completion signal, the return from the failure path too (R150, R187). -/
def completeSession (a : Answer) (s : State) : State :=
  let h := s.h.completed a.ok
  respondOwed h.err h.frameLength { s with h := h }

/-! ## Reset -/

/-- Reset, also in the middle of an operation: the fields of R40, nothing emitted, the transport's pending answer dropped
with it (R211; log entry 14). -/
def resetBlock (s : State) : State :=
  { s with h := Handle.reset s.draws, answer := none, draws := s.draws + 1 }

end Sys2Proof.Machine
end

