-- ==== Sys2Proof/Machine/Receiver.lean ====
section
/-! DEFINITION. The frame-reception sequencer (spec/42_frame_receiver.md): the acceptance step of RX (R141) and the
response step of each state of a session (R143 to R150). -/

namespace Sys2Proof.Machine

/-- The acceptance step of RX: open a session and suspend frame acceptance (R141). -/
def startSession (s : State) : State :=
  issue (bbWrite s.params s.params.bbDisable)
    { s with
      h := { s.h.clearError with
        inProgress := true
        frameLength := Config.lenSentinel
        pendOp := 0x5#4
        idx := 0#8
        st := .rxDisable } }

/-- RX (R141). -/
def execRx (s : State) : Host.Outcome State Fault Refusal :=
  .next (acceptCommand 0x5#4 (startSession s) s)

/-- The answer to the disable write (R143). -/
def rxDisableAnswer (a : Answer) (s : State) : State :=
  if a.ok then issue (fifoRead (fifoLenAddr s.params)) { s with h := { s.h with st := .rxLen } }
  else failSession .busError s

/-- The answer to the length read (R144, R145). -/
def rxLenAnswer (a : Answer) (s : State) : State :=
  if a.ok then
    let s' : State := { s with h := { s.h with frameLength := decodeRead a.rx } }
    if (decodeRead a.rx).toNat > Config.frameBufSize then failSession .length s'
    else if decodeRead a.rx = 0#8 then
      issue (fifoRead (fifoDataAddr s.params 0#8)) { s' with h := { s'.h with st := .rxLq } }
    else
      issue (fifoRead (fifoDataAddr s.params 0#8)) { s' with h := { s'.h with idx := 0#8, st := .rxData } }
  else failSession .busError s

/-- The fields once the data byte read at `h.idx` is stored and the index has advanced (R146). -/
def Handle.storeByte (h : Handle) (rx : Byte) : Handle :=
  { h with frameBuffer := h.frameBuffer.setIfInBounds h.idx.toNat rx, idx := h.idx + 1#8 }

/-- Read what follows the data bytes stored so far: the next data byte, or after the last one the link-quality byte
(R146). -/
def readNext (s : State) : State :=
  if s.h.idx = s.h.frameLength then
    issue (fifoRead (fifoDataAddr s.params s.h.frameLength)) { s with h := { s.h with st := .rxLq } }
  else issue (fifoRead (fifoDataAddr s.params s.h.idx)) s

/-- The answer to a data read, the FIFO drain (R146). An index past 126 stops (U6; log entry 11). -/
def rxDataAnswer (a : Answer) (s : State) : Host.Outcome State Fault Refusal :=
  if a.ok then
    if s.h.idx.toNat < Config.frameBufSize then .next (readNext { s with h := s.h.storeByte (decodeRead a.rx) })
    else .fault .frameBufferIndex
  else .next (failSession .busError s)

/-- The answer to the link-quality read (R147). -/
def rxLqAnswer (a : Answer) (s : State) : State :=
  if a.ok then
    issue (fifoRead (fifoSsAddr s.params s.h.frameLength))
      { s with h := { s.h with linkQuality := decodeRead a.rx, st := .rxSs } }
  else failSession .busError s

/-- The answer to the signal-strength read (R148). -/
def rxSsAnswer (a : Answer) (s : State) : State :=
  if a.ok then toEnable { s with h := { s.h with signalStrength := decodeRead a.rx } }
  else failSession .busError s

/-- The answer to the re-enable write (R150). -/
def rxEnableAnswer (a : Answer) (s : State) : State := completeSession a s

end Sys2Proof.Machine
end

