-- ==== Sys2Proof/Machine/RegisterOps.lean ====
section
/-! DEFINITION. The register commands WS, RS, WL, RL (spec/41_register_ops.md R121 to R125): the acceptance step of each
and the response step they share. -/

namespace Sys2Proof.Machine

/-- WS (R122). -/
def execWs (a : Addr16) (v : Byte) (s : State) : Host.Outcome State Fault Refusal :=
  .next (acceptCommand 0x1#4 (startRegister 0x1#4 (memWrite .short a v) s) s)

/-- RS (R123). -/
def execRs (a : Addr16) (s : State) : Host.Outcome State Fault Refusal :=
  .next (acceptCommand 0x2#4 (startRegister 0x2#4 (memRead .short a) s) s)

/-- WL (R124). -/
def execWl (a : Addr16) (v : Byte) (s : State) : Host.Outcome State Fault Refusal :=
  .next (acceptCommand 0x3#4 (startRegister 0x3#4 (memWrite .long a v) s) s)

/-- RL (R125). -/
def execRl (a : Addr16) (s : State) : Host.Outcome State Fault Refusal :=
  .next (acceptCommand 0x4#4 (startRegister 0x4#4 (memRead .long a) s) s)

/-- The response step of a register command (R121). -/
def registerAnswer (a : Answer) (s : State) : State :=
  respondOwed (answerStatus a) (answerData s.h.rxn a) { s with h := { s.h with st := .idle } }

end Sys2Proof.Machine
end

