-- ==== Sys2Proof/Machine/BusFrames.lean ====
section
/-! DEFINITION. The bus frames of the opcode table (spec/30_encoding.md R72; spec/40_codec.md R101 to R104): the step that
takes the transport's answer to the transaction whose frame it is (spec/60_exceptions.md R194 (b), R195, R196; log
entry 6). -/

namespace Sys2Proof.Machine

/-- The response rule of the current `h.st` (R196). IDLE has none (log entry 10). -/
def responseRule (a : Answer) (s : State) : Host.Outcome State Fault Refusal :=
  match s.h.st with
  | .idle => .fault .answerWhileIdle
  | .regBusy => .next (registerAnswer a s)
  | .rxDisable => .next (rxDisableAnswer a s)
  | .rxLen => .next (rxLenAnswer a s)
  | .rxData => rxDataAnswer a s
  | .rxLq => .next (rxLqAnswer a s)
  | .rxSs => .next (rxSsAnswer a s)
  | .rxEnable => .next (rxEnableAnswer a s)

/-- The step of a bus frame that makes the given chip access: without an answer the block waits (R142, R157); with one,
the transaction is over and the response rule runs (R196); an answer to no transaction stops (log entry 9). -/
def takeAnswer (space : Scheme) (addr : LongAddr) (kind : AccessKind) (s : State) : Host.Outcome State Fault Refusal :=
  match s.answer with
  | none => .next s
  | some a =>
    if s.h.inflight then responseRule a (finishTransaction space addr kind a s)
    else .fault .strayAnswer

/-- `frame.short_write`: `MemWrite(SHORT, a, 1, v)` (R52, R101). -/
def execFrameShortWrite (a : ShortAddr) (v : Byte) (s : State) : Host.Outcome State Fault Refusal :=
  takeAnswer .short (a.setWidth 10) (.write v) s

/-- `frame.short_read`: `MemRead(SHORT, a, 1)` (R52, R102). -/
def execFrameShortRead (a : ShortAddr) (s : State) : Host.Outcome State Fault Refusal :=
  takeAnswer .short (a.setWidth 10) .read s

/-- `frame.long_write`: `MemWrite(LONG, a, 1, v)` (R52, R103). -/
def execFrameLongWrite (a : LongAddr) (v : Byte) (s : State) : Host.Outcome State Fault Refusal :=
  takeAnswer .long a (.write v) s

/-- `frame.long_read`: `MemRead(LONG, a, 1)` (R52, R104). -/
def execFrameLongRead (a : LongAddr) (s : State) : Host.Outcome State Fault Refusal :=
  takeAnswer .long a .read s

end Sys2Proof.Machine
end

