-- ==== Sys2Proof/Machine/Reserved.lean ====
section
/-! DEFINITION. The command words with a reserved OP (spec/30_encoding.md R80): the block answers ILLEGAL. -/

namespace Sys2Proof.Machine

/-- OP 0x0. -/
def execReservedOp0 (s : State) : Host.Outcome State Fault Refusal := .next (rejectIllegal 0x0#4 s)

/-- OP 0x6 or 0x7. -/
def execReservedOp6to7 (op : Opcode) (s : State) : Host.Outcome State Fault Refusal := .next (rejectIllegal op s)

/-- OP 0x8 to 0xF. -/
def execReservedOp8toF (op : Opcode) (s : State) : Host.Outcome State Fault Refusal := .next (rejectIllegal op s)

end Sys2Proof.Machine
end

