-- ==== Sys2Proof/Machine/Dispatch.lean ====
section
/-! DEFINITION. One arm for each row of the opcode table. -/

namespace Sys2Proof.Machine

def exec (i : Instr) (s : State) : Host.Outcome State Fault Refusal :=
  match i with
  | .ws a v => Sys2Proof.Machine.execWs a v s
  | .rs a => Sys2Proof.Machine.execRs a s
  | .wl a v => Sys2Proof.Machine.execWl a v s
  | .rl a => Sys2Proof.Machine.execRl a s
  | .rx => Sys2Proof.Machine.execRx s
  | .reservedOp0 => Sys2Proof.Machine.execReservedOp0 s
  | .reservedOp6to7 op => Sys2Proof.Machine.execReservedOp6to7 op s
  | .reservedOp8toF op => Sys2Proof.Machine.execReservedOp8toF op s
  | .frameShortWrite a v => Sys2Proof.Machine.execFrameShortWrite a v s
  | .frameShortRead a => Sys2Proof.Machine.execFrameShortRead a s
  | .frameLongWrite a v => Sys2Proof.Machine.execFrameLongWrite a v s
  | .frameLongRead a => Sys2Proof.Machine.execFrameLongRead a s

end Sys2Proof.Machine
end

