-- ==== Sys2Proof/Machine/Fetch.lean ====
section
/-! DEFINITION. What one event brings (spec/60_exceptions.md R194; log entries 1 and 6), and placing an instruction where
the next step takes it (log entry 13). -/

namespace Sys2Proof.Machine

/-- What the step does with the next event. -/
inductive Fetched where
  /-- There is nothing to take: the block waits. -/
  | waits
  /-- Run this instruction in this state. -/
  | run (i : Instr) (s : State)
  /-- The event is no instruction; this is the next state. -/
  | event (s : State)
  /-- An answer to no transaction. -/
  | stray
  /-- The bytes in flight are no bus frame. -/
  | noBusFrame
  deriving DecidableEq, Repr

/-- Take a command word: the instruction it encodes (R194 (a)). -/
def fetchCommand (w : CommandWord) (s : State) : Fetched := .run (decodeCommand w) s

/-- Take the transport's answer: the instruction is the bus frame in flight, and the answer is presented to it (R194 (b),
R196). -/
def fetchAnswer (a : Answer) (s : State) : Fetched :=
  if s.h.inflight then
    match decodeFrame s.h.txBytes with
    | .ok i => .run i { s with answer := some a }
    | .error _ => .noBusFrame
  else .stray

/-- Take the next event. -/
def fetch (s : State) : Fetched :=
  match s.inputs with
  | [] => .waits
  | .command w :: rest => fetchCommand w { s with inputs := rest }
  | .answer a :: rest => fetchAnswer a { s with inputs := rest }
  | .takeResponse :: rest => .event (clientTakes { s with inputs := rest })
  | .reset :: rest => .event (resetBlock { s with inputs := rest })

/-- The client presents a command word next (log entry 13). -/
def placeCommand (w : CommandWord) (s : State) : State := { s with inputs := .command w :: s.inputs }

/-- A register command has put this frame on the bus and the transport answers it next with success and the byte 0x00
(log entry 13). `op` is the command, `rxn` what the frame receives. -/
def placeFrame (bytes : List Byte) (op : Opcode) (rxn : BitVec 1) (s : State) : State :=
  { s with
    h := { s.h with
      st := .regBusy
      pendOp := op
      txbuf := txBuffer bytes s.draws
      txlen := BitVec.ofNat 2 bytes.length
      rxn := rxn
      inflight := true }
    inputs := .answer ⟨true, 0x00#8⟩ :: s.inputs
    draws := s.draws + 1 }

/-- Place what a packet carries where the next step takes it. Bytes that are no bus frame are placed as they are. -/
def placePacket (p : Packet) (s : State) : State :=
  match p with
  | .word w => placeCommand w s
  | .frame bytes =>
    match decodeFrame bytes with
    | .ok i => placeFrame bytes i.op i.receiveCount s
    | .error _ => placeFrame bytes 0x0#4 0#1 s

end Sys2Proof.Machine
end

