-- ==== Sys2Proof/Machine/Step.lean ====
section
/-! DEFINITION. One step: take one event (spec/00_scope.md R12; spec/60_exceptions.md R185, R194). -/

namespace Sys2Proof.Machine

/-- One step of the machine. -/
def step (s : State) : Host.Outcome State Fault Refusal :=
  match fetch s with
  | .waits => .next s
  | .run i s' => exec i s'
  | .event s' => .next s'
  | .stray => .fault .strayAnswer
  | .noBusFrame => .refused .noBusFrame

/-- The state with a row of the opcode table stored where the next step takes its instruction (log entry 13). -/
def State.withFetchWord (s : State) (nbits w : Nat) : State := placePacket (tablePacket nbits w) s

end Sys2Proof.Machine
end

