-- ==== Sys2Proof/Safety.lean ====
section
/-! DEFINITION. The terms in which claims speak of a run: what a step takes, the invariants (spec/10_state.md R36 and what
the transaction in flight is), the transactions of a session, and several steps in a row. -/

namespace Sys2Proof.Machine

/-! ## What the next step takes -/

/-- A legal operation code (R79); every other is reserved (R80). -/
abbrev legalOp (op : Opcode) : Prop := op = 0x1#4 ∨ op = 0x2#4 ∨ op = 0x3#4 ∨ op = 0x4#4 ∨ op = 0x5#4

/-- The next step accepts a command word of the legal opcode `op` (R120). -/
def State.accepts (s : State) (op : Opcode) : Prop :=
  s.h.st = .idle ∧ legalOp op ∧ ∃ w rest, s.inputs = .command w :: rest ∧ wordOp w = op

/-- The next step takes the answer `a` to the transaction in flight (R194 (b)). -/
def State.takes (s : State) (a : Answer) : Prop :=
  s.h.inflight = true ∧ ∃ rest, s.inputs = .answer a :: rest

/-- The next step takes an answer in sequencing state `st`. -/
def State.answeredIn (s : State) (st : St) : Prop := s.h.st = st ∧ ∃ a, s.takes a

/-- The next step is a reset (R211). -/
def State.isReset (s : State) : Prop := ∃ rest, s.inputs = .reset :: rest

/-- The next event is an answer although no transaction is in flight, against R196. -/
def State.strayNext (s : State) : Prop := s.h.inflight = false ∧ ∃ a rest, s.inputs = .answer a :: rest

/-! ## Invariants -/

/-- The invariants of R36, in its order. -/
abbrev Handle.Inv (h : Handle) : Prop :=
  (h.inflight = true ↔ h.st ≠ .idle) ∧
  (h.inProgress = true ↔ h.st.inSession = true) ∧
  ((h.st = .rxData → 1 ≤ h.frameLength.toNat ∧ h.frameLength.toNat ≤ 127 ∧ h.idx.toNat < h.frameLength.toNat) ∧
    (h.st = .rxLq ∨ h.st = .rxSs → h.frameLength.toNat ≤ 127)) ∧
  (h.st = .rxDisable ∨ h.st = .rxLen → h.frameLength = Config.lenSentinel) ∧
  (h.inProgress = true → (h.err = .ok ↔ h.errPhase = 0#3))

/-- What the drain index and the error flags are in each state (R21, R22, R31, R141, R146, R156, R188): the index never
exceeds 127, is 0 before the drain and the length after it; an error is one of three statuses, and before RX_ENABLE there
is none. -/
abbrev Handle.DrainInv (h : Handle) : Prop :=
  h.idx.toNat ≤ 127 ∧
  (h.st = .rxDisable ∨ h.st = .rxLen → h.idx = 0#8) ∧
  (h.st = .rxLq ∨ h.st = .rxSs → h.idx = h.frameLength) ∧
  (h.err = .ok ∨ h.err = .busError ∨ h.err = .length) ∧
  (h.st = .rxDisable ∨ h.st = .rxLen ∨ h.st = .rxData ∨ h.st = .rxLq ∨ h.st = .rxSs → h.err = .ok)

/-- The transaction that a state of a session has in flight (R140: it is issued on entry to the state). -/
def State.sessionTransaction (s : State) : Option Transaction :=
  match s.h.st with
  | .idle | .regBusy => none
  | .rxDisable => some (bbWrite s.params s.params.bbDisable)
  | .rxLen => some (fifoRead (fifoLenAddr s.params))
  | .rxData => some (fifoRead (fifoDataAddr s.params s.h.idx))
  | .rxLq => some (fifoRead (fifoDataAddr s.params s.h.frameLength))
  | .rxSs => some (fifoRead (fifoSsAddr s.params s.h.frameLength))
  | .rxEnable => some (bbWrite s.params s.params.bbEnable)

/-- The transaction the fields `h.txbuf`, `h.txlen`, `h.rxn` describe (R29, R195). -/
def Handle.transaction (h : Handle) : Transaction := ⟨h.txBytes, h.rxn⟩

/-- The transaction fields hold a bus frame of the given instruction (R72). -/
def Handle.carries (h : Handle) (i : Instr) : Prop :=
  i.isFrame = true ∧ decodeFrame h.txBytes = .ok i ∧ h.rxn = i.receiveCount

/-- What is in flight belongs to the command in progress (R29, R30, R140): in a session the state's transaction, owed to
RX; in REG_BUSY a bus frame of the command whose response is owed. -/
def State.TransactionInv (s : State) : Prop :=
  (s.h.st.inSession = true → s.h.pendOp = 0x5#4 ∧ some s.h.transaction = s.sessionTransaction) ∧
  (s.h.st = .regBusy → ∃ i, s.h.carries i ∧ s.h.pendOp = i.op)

/-- Every invariant. -/
def State.Inv (s : State) : Prop := s.h.Inv ∧ s.h.DrainInv ∧ s.TransactionInv

/-! ## What a step leaves -/

/-- The transaction of a register command word (R122 to R125). -/
def registerTransaction (w : CommandWord) : Transaction :=
  if wordOp w = 0x1#4 then memWrite .short (wordAddr w) (wordValue w)
  else if wordOp w = 0x2#4 then memRead .short (wordAddr w)
  else if wordOp w = 0x3#4 then memWrite .long (wordAddr w) (wordValue w)
  else memRead .long (wordAddr w)

/-- The transaction that the acceptance of a legal command word issues (R122 to R125, R141). -/
def commandTransaction (p : Params) (w : CommandWord) : Transaction :=
  if wordOp w = 0x5#4 then bbWrite p p.bbDisable else registerTransaction w

/-- `t` is `s` after it issued `x`, the fields otherwise being `h` (R195): the transaction fields hold `x`, it has been
handed to the transport, and nothing else has changed (the counter of free values apart). -/
def State.issued (s : State) (h : Handle) (x : Transaction) (t : State) : Prop :=
  t.h.inflight = true ∧ t.h.txlen.toNat = x.bytes.length ∧ t.h.rxn = x.rxn ∧
  (∀ (i : Nat) (hi : i < 3) (b : Byte), x.bytes[i]? = some b → t.h.txbuf[i] = b) ∧
  t.bus = s.bus ++ [x] ∧
  t.h = { h with txbuf := t.h.txbuf, txlen := t.h.txlen, rxn := t.h.rxn, inflight := t.h.inflight } ∧
  t = { s with h := t.h, bus := t.bus, draws := t.draws }

/-- The access of the chip a bus frame makes, ended as the transport answers (R52, R62, R196); a command word makes none
itself. -/
def accessesOf (i : Instr) (a : Answer) : List Access :=
  match i with
  | .frameShortWrite ad v => [⟨.short, ad.setWidth 10, .write v, if a.ok then .written else .failed⟩]
  | .frameShortRead ad => [⟨.short, ad.setWidth 10, .read, if a.ok then .received a.rx else .failed⟩]
  | .frameLongWrite ad v => [⟨.long, ad, .write v, if a.ok then .written else .failed⟩]
  | .frameLongRead ad => [⟨.long, ad, .read, if a.ok then .received a.rx else .failed⟩]
  | .ws _ _ | .rs _ | .wl _ _ | .rl _ | .rx | .reservedOp0 | .reservedOp6to7 _ | .reservedOp8toF _ => []

/-- The ports of `s` once the answer `a` to the frame `i` is taken (R196); the fields are not yet changed. -/
def State.answered (s : State) (i : Instr) (a : Answer) : State :=
  { s with answer := none, accesses := s.accesses ++ accessesOf i a }

/-- The fields on the failure path, before the re-enable write is issued: RX_ENABLE, and the first error of the session
with the state it happened in (R142, R186, R188). -/
def Handle.failed (h : Handle) (code : Status) : Handle :=
  { h with
    st := .rxEnable
    err := if h.err = .ok then code else h.err
    errPhase := if h.err = .ok then h.st.code else h.errPhase }

/-! ## Several steps, and a whole session -/

/-- `k` steps. -/
abbrev run (k : Nat) (s : State) : Host.Outcome State Fault Refusal := Host.Core.run Sys2Proof.core k s

/-- The data reads of a session up to index `n` (R146). -/
def dataReads (p : Params) (n : Nat) : List Transaction :=
  (List.range n).map fun i => fifoRead (fifoDataAddr p (BitVec.ofNat 8 i))

/-- The transactions before the trailer reads: disable write, length read, `n` data reads (R155). -/
def drainTransactions (p : Params) (n : Nat) : List Transaction :=
  [bbWrite p p.bbDisable, fifoRead (fifoLenAddr p)] ++ dataReads p n

/-- The transactions of a successful session with length `n`, in order (R155). -/
def sessionTransactions (p : Params) (n : Nat) : List Transaction :=
  drainTransactions p n ++
    [fifoRead (fifoDataAddr p (BitVec.ofNat 8 n)), fifoRead (fifoSsAddr p (BitVec.ofNat 8 n)), bbWrite p p.bbEnable]

/-- The answers of reads that succeed with these bytes. -/
def okAnswers (bytes : List Byte) : List Input := bytes.map fun b => .answer ⟨true, b⟩

/-! ## The source's states -/

/-- The source's receiver states Idle, Receiving, Draining (R23). -/
inductive SourceState where
  | idle
  | receiving
  | draining
  deriving DecidableEq, Repr

/-- Where a sequencing state stands in the source's lifecycle `Idle → Receiving → Draining → Idle` (R23): in one of its
states, on its step from Draining to Idle, or outside the source's receiver. -/
inductive SourcePlace where
  | inState (q : SourceState)
  | drainingToIdle
  | outside
  deriving DecidableEq, Repr

/-- The mapping of R23. Idle is IDLE alone; RX_ENABLE is the source's step from Draining to Idle; REG_BUSY is outside the
source's receiver state machine. -/
def St.source : St → SourcePlace
  | .idle => .inState .idle
  | .rxDisable | .rxLen => .inState .receiving
  | .rxData | .rxLq | .rxSs => .inState .draining
  | .rxEnable => .drainingToIdle
  | .regBusy => .outside

end Sys2Proof.Machine
end

