-- ==== Sys2Proof/Certificates/Slice0/Obligations.lean ====
section
/-! DEFINITION. The statements for the provers. Each docstring names the rule of the spec it formalises. `run`, the
invariants and the words of the statements are defined in Sys2Proof/Safety.lean. -/

open Sys2Proof Sys2Proof.Machine

/-! ## The codec and the encodings -/

/-- R71, R73, R74, R77: the codec's formulas place `ADDR16[5:0]`, or `ADDR16[9:3]` and `ADDR16[2:0]`, the scheme bit and
the direction bit exactly where the header tables say, and copy the value. -/
def Obligations.CodecFollowsHeaderTables : Prop :=
  ∀ (a : Addr16) (v : Byte),
    encodeShortWrite a v = [0#1 ++ a.extractLsb' 0 6 ++ 1#1, v] ∧
    encodeShortReadHeader a = 0#1 ++ a.extractLsb' 0 6 ++ 0#1 ∧
    encodeLongWrite a v = [1#1 ++ a.extractLsb' 3 7, a.extractLsb' 0 3 ++ 1#1 ++ 0#4, v] ∧
    encodeLongReadHeader a = [1#1 ++ a.extractLsb' 3 7, a.extractLsb' 0 3 ++ 0#1 ++ 0#4]

/-- R106: each encoder gives the same bytes for an address and for the address masked, and masking is idempotent. -/
def Obligations.EncodersMaskAddresses : Prop :=
  ∀ (a m : Addr16) (v : Byte),
    encodeShortWrite a v = encodeShortWrite (a &&& 0x3F#16) v ∧
    encodeShortReadHeader a = encodeShortReadHeader (a &&& 0x3F#16) ∧
    encodeLongWrite a v = encodeLongWrite (a &&& 0x3FF#16) v ∧
    encodeLongReadHeader a = encodeLongReadHeader (a &&& 0x3FF#16) ∧
    (a &&& m) &&& m = a &&& m

/-- R109: decoding a header by R107 or R108 gives back the scheme, the address (masked, if it was out of range) and the
direction. -/
def Obligations.HeaderDecodeInvertsEncode : Prop :=
  ∀ (a : Addr16) (v : Byte),
    (∃ h, encodeShortWrite a v = [h, v] ∧ decodeShortHeader h = ⟨0#1, (a &&& 0x3F#16).setWidth 6, 1#1⟩) ∧
    decodeShortHeader (encodeShortReadHeader a) = ⟨0#1, (a &&& 0x3F#16).setWidth 6, 0#1⟩ ∧
    (∃ b0 b1, encodeLongWrite a v = [b0, b1, v] ∧
      decodeLongHeader b0 b1 = ⟨1#1, (a &&& 0x3FF#16).setWidth 10, 1#1, 0#4⟩) ∧
    (∃ b0 b1, encodeLongReadHeader a = [b0, b1] ∧
      decodeLongHeader b0 b1 = ⟨1#1, (a &&& 0x3FF#16).setWidth 10, 0#1, 0#4⟩) ∧
    (a.toNat < 64 → ((a &&& 0x3F#16).setWidth 6).toNat = a.toNat) ∧
    (a.toNat < 1024 → ((a &&& 0x3FF#16).setWidth 10).toNat = a.toNat)

/-- R110: the source's bit laws, for every 16-bit address. -/
def Obligations.HeaderBitLaws : Prop :=
  ∀ (a : Addr16) (v : Byte),
    (∃ h, encodeShortWrite a v = [h, v] ∧ h &&& 0x81#8 = 0x01#8) ∧
    encodeShortReadHeader a &&& 0x81#8 = 0x00#8 ∧
    (∃ b0 b1, encodeLongWrite a v = [b0, b1, v] ∧ b0.getLsbD 7 = true ∧ b1.getLsbD 4 = true) ∧
    (∃ b0 b1, encodeLongReadHeader a = [b0, b1] ∧ b1.getLsbD 4 = false)

/-- From R75, R111: a header determines its scheme, its masked address and its direction; a short header and a long byte 0
never coincide; the length of a header is known from its first byte. -/
def Obligations.HeadersAreInjective : Prop :=
  ∀ (a b : Addr16) (v w : Byte),
    ((encodeShortWrite a v).take 1 = (encodeShortWrite b w).take 1 → a &&& 0x3F#16 = b &&& 0x3F#16) ∧
    (encodeShortReadHeader a = encodeShortReadHeader b → a &&& 0x3F#16 = b &&& 0x3F#16) ∧
    ((encodeLongWrite a v).take 2 = (encodeLongWrite b w).take 2 → a &&& 0x3FF#16 = b &&& 0x3FF#16) ∧
    (encodeLongReadHeader a = encodeLongReadHeader b → a &&& 0x3FF#16 = b &&& 0x3FF#16) ∧
    (encodeShortWrite a v).head? ≠ some (encodeShortReadHeader b) ∧
    (encodeLongWrite a v).take 2 ≠ encodeLongReadHeader b ∧
    (encodeShortWrite a v).head? ≠ (encodeLongWrite b w).head? ∧
    (encodeShortWrite a v).head? ≠ (encodeLongReadHeader b).head? ∧
    some (encodeShortReadHeader a) ≠ (encodeLongWrite b w).head? ∧
    some (encodeShortReadHeader a) ≠ (encodeLongReadHeader b).head? ∧
    (encodeShortWrite a v).head?.map headerLength = some 1 ∧ headerLength (encodeShortReadHeader a) = 1 ∧
    (encodeLongWrite a v).head?.map headerLength = some 2 ∧ (encodeLongReadHeader a).head?.map headerLength = some 2

/-- From R72, R78 to R80, R82: decoding the encoding of a well-formed instruction gives it back, for every row of the
table. -/
def Obligations.DecodeInvertsEncode : Prop :=
  ∀ i : Instr, i.wellFormed = true → decode (encode i) = .ok i

/-- From R72, R76, R78, R80, R82: what the decoder accepts is a well-formed instruction; a bus frame is exactly its
encoding, and a command word is its encoding but for the bits its row ignores. That the encoder writes every ignored bit as
0 is R82's for the five commands and the model's choice for the reserved rows (log entry 20). -/
def Obligations.EncodeInvertsDecode : Prop :=
  (∀ (bytes : List Byte) (i : Instr), decode (.frame bytes) = .ok i →
    i.wellFormed = true ∧ i.isFrame = true ∧ encode i = .frame bytes) ∧
  (∀ w : CommandWord, ∃ i, decode (.word w) = .ok i ∧
    i.wellFormed = true ∧ i.isFrame = false ∧ encode i = .word (w &&& significantBits w))

/-- From R52, R72, R75, R77: the transactions of the chip-access primitives carry the bus frame of their form, with the
masked address, the value, and the receive count. -/
def Obligations.TransactionsCarryTheirFrames : Prop :=
  ∀ (a : Addr16) (v : Byte),
    decodeFrame (memWrite .short a v).bytes = .ok (.frameShortWrite (a.extractLsb' 0 6) v) ∧
    decodeFrame (memRead .short a).bytes = .ok (.frameShortRead (a.extractLsb' 0 6)) ∧
    decodeFrame (memWrite .long a v).bytes = .ok (.frameLongWrite (a.extractLsb' 0 10) v) ∧
    decodeFrame (memRead .long a).bytes = .ok (.frameLongRead (a.extractLsb' 0 10)) ∧
    (memWrite .short a v).rxn = 0#1 ∧ (memRead .short a).rxn = 1#1 ∧
    (memWrite .long a v).rxn = 0#1 ∧ (memRead .long a).rxn = 1#1

/-- From R71 to R74, R78, R79: words and frames written out from the encodings decode to what they stand for. -/
def Obligations.WrittenOutWordsDecode : Prop :=
  decode (.word 0x100015A5#32) = .ok (.ws 0x15#16 0xA5#8) ∧
  decode (.word 0x2F0015EE#32) = .ok (.rs 0x15#16) ∧
  decode (.word 0x3002AA07#32) = .ok (.wl 0x2AA#16 0x07#8) ∧
  decode (.word 0x4002AA00#32) = .ok (.rl 0x2AA#16) ∧
  decode (.word 0x5FFFFFFF#32) = .ok .rx ∧
  decode (.word 0x00000000#32) = .ok .reservedOp0 ∧
  decode (.word 0x60001234#32) = .ok (.reservedOp6to7 0x6#4) ∧
  decode (.word 0xFFFFFFFF#32) = .ok (.reservedOp8toF 0xF#4) ∧
  decode (.frame [0x73#8, 0x04#8]) = .ok (.frameShortWrite 0x39#6 0x04#8) ∧
  decode (.frame [0x72#8]) = .ok (.frameShortRead 0x39#6) ∧
  decode (.frame [0xC0#8, 0x10#8, 0x03#8]) = .ok (.frameLongWrite 0x200#10 0x03#8) ∧
  decode (.frame [0xE0#8, 0x20#8]) = .ok (.frameLongRead 0x301#10) ∧
  decode (.frame [0xE0#8, 0x21#8]) = .error .reservedBits

/-- R78, R79: each operation code selects its operation, its fields come from their bits, and every field it does not
use is ignored, whatever it holds. -/
def Obligations.CommandFieldsDecode : Prop :=
  ∀ (rsv : BitVec 4) (a : Addr16) (v : Byte),
    decodeCommand (0x1#4 ++ rsv ++ a ++ v) = .ws a v ∧
    decodeCommand (0x2#4 ++ rsv ++ a ++ v) = .rs a ∧
    decodeCommand (0x3#4 ++ rsv ++ a ++ v) = .wl a v ∧
    decodeCommand (0x4#4 ++ rsv ++ a ++ v) = .rl a ∧
    decodeCommand (0x5#4 ++ rsv ++ a ++ v) = .rx ∧
    decodeCommand (0x0#4 ++ rsv ++ a ++ v) = .reservedOp0 ∧
    (∀ op : Opcode, op = 0x6#4 ∨ op = 0x7#4 → decodeCommand (op ++ rsv ++ a ++ v) = .reservedOp6to7 op) ∧
    (∀ op : Opcode, 0x8#4 ≤ op → decodeCommand (op ++ rsv ++ a ++ v) = .reservedOp8toF op)

/-- From R82: the word of an assembler line is the number R82 gives, with `RSV` and every unused field 0; it is the
encoding of the line's operation, which it decodes to. That a number out of range has no word is the model's choice (log
entry 19). -/
def Obligations.AssemblerWordsDecode : Prop :=
  ∀ a v : Nat,
    (a ≤ 0xFFFF → v ≤ 0xFF →
      (∃ w, assemble (.ws a v) = some w ∧ w.toNat = 0x10000000 ||| (a <<< 8) ||| v ∧
        encode (.ws (BitVec.ofNat 16 a) (BitVec.ofNat 8 v)) = .word w ∧
        decodeCommand w = .ws (BitVec.ofNat 16 a) (BitVec.ofNat 8 v)) ∧
      (∃ w, assemble (.rs a) = some w ∧ w.toNat = 0x20000000 ||| (a <<< 8) ∧
        encode (.rs (BitVec.ofNat 16 a)) = .word w ∧ decodeCommand w = .rs (BitVec.ofNat 16 a)) ∧
      (∃ w, assemble (.wl a v) = some w ∧ w.toNat = 0x30000000 ||| (a <<< 8) ||| v ∧
        encode (.wl (BitVec.ofNat 16 a) (BitVec.ofNat 8 v)) = .word w ∧
        decodeCommand w = .wl (BitVec.ofNat 16 a) (BitVec.ofNat 8 v)) ∧
      (∃ w, assemble (.rl a) = some w ∧ w.toNat = 0x40000000 ||| (a <<< 8) ∧
        encode (.rl (BitVec.ofNat 16 a)) = .word w ∧ decodeCommand w = .rl (BitVec.ofNat 16 a)) ∧
      (∃ w, assemble .rx = some w ∧ w.toNat = 0x50000000 ∧ encode .rx = .word w ∧ decodeCommand w = .rx)) ∧
    (0xFFFF < a → assemble (.ws a v) = none ∧ assemble (.rs a) = none ∧ assemble (.wl a v) = none ∧
      assemble (.rl a) = none) ∧
    (0xFF < v → assemble (.ws a v) = none ∧ assemble (.wl a v) = none)

/-- R152: data byte `i` is read at long address `(D + i) mod 1024`, the link-quality byte at `(D + n) mod 1024`, the
signal-strength byte at `(D + n + 1) mod 1024`, the length at `FIFO_LEN_ADDR mod 1024`. -/
def Obligations.FifoAddressesWrap : Prop :=
  ∀ (p : Params) (n : Byte), n.toNat ≤ 127 →
    (∀ i : Byte, i.toNat < n.toNat → decodeFrame (fifoRead (fifoDataAddr p i)).bytes =
      .ok (.frameLongRead (BitVec.ofNat 10 ((p.fifoDataBase.toNat + i.toNat) % 1024)))) ∧
    decodeFrame (fifoRead (fifoDataAddr p n)).bytes =
      .ok (.frameLongRead (BitVec.ofNat 10 ((p.fifoDataBase.toNat + n.toNat) % 1024))) ∧
    decodeFrame (fifoRead (fifoSsAddr p n)).bytes =
      .ok (.frameLongRead (BitVec.ofNat 10 ((p.fifoDataBase.toNat + n.toNat + 1) % 1024))) ∧
    decodeFrame (fifoRead (fifoLenAddr p)).bytes = .ok (.frameLongRead (BitVec.ofNat 10 (p.fifoLenAddr.toNat % 1024)))

/-! ## Reset -/

/-- R40, R210: the fields the spec gives a reset value have it, for every instance; no response is owed or emitted, no
transaction is issued, and the block waits for its first command word. (The fields R40 calls unspecified are not
mentioned: their values are the model's free values, log entry 3.) -/
def Obligations.ResetValues : Prop :=
  ∀ p : Params,
    (State.resetFor p).h.st = .idle ∧ (State.resetFor p).h.idx = 0#8 ∧ (State.resetFor p).h.inProgress = false ∧
    (State.resetFor p).h.frameLength = 0xFF#8 ∧ (State.resetFor p).h.inflight = false ∧
    (State.resetFor p).h.err = .ok ∧ (State.resetFor p).h.errPhase = 0#3 ∧
    (State.resetFor p).params = p ∧ (State.resetFor p).responses = [] ∧ (State.resetFor p).bus = [] ∧
    (State.resetFor p).accesses = [] ∧ step (State.resetFor p) = .next (State.resetFor p) ∧
    (∃ q, State.reset = State.resetFor q)

/-- Every invariant holds after reset, for every instance. -/
def Obligations.ResetSatisfiesInvariants : Prop :=
  ∀ p : Params, (State.resetFor p).Inv

/-- From R40, R211: a reset in the middle of an operation abandons it: no response, no completion, no re-enable write, the
fields of R40; the configuration stays (R38). That the events to come and the responses already emitted stay is the
model's choice (log entry 14). -/
def Obligations.ResetAbandonsOperation : Prop :=
  ∀ (s : State) (rest : List Input), s.inputs = .reset :: rest →
    ∃ t, step s = .next t ∧
      t.h.st = .idle ∧ t.h.idx = 0#8 ∧ t.h.inProgress = false ∧ t.h.frameLength = 0xFF#8 ∧ t.h.inflight = false ∧
      t.h.err = .ok ∧ t.h.errPhase = 0#3 ∧ t.answer = none ∧ t.responses = s.responses ∧ t.bus = s.bus ∧
      t.accesses = s.accesses ∧ t.inputs = rest ∧ t.params = s.params

/-! ## The step -/

/-- From R12, R194: a step takes one event. A command word runs the instruction it encodes; an answer to the transaction
in flight runs the bus frame the transaction fields hold, with the answer presented; the client's take removes the oldest
response; with no event the block waits. The model's choices: that the answer's step runs the frame it answers (log entry
6), that a take from an empty channel takes nothing (log entry 8), that waiting is a step to the same state (log entry 2),
and the two stops, on events the spec rules out but gives no stop for: an answer to no transaction (R196; log entry 9),
bytes that are no bus frame (R76; log entry 12). -/
def Obligations.StepRunsDecodedInstruction : Prop :=
  (∀ (s : State) (i : Instr) (w : CommandWord) (rest : List Input),
    s.inputs = .command w :: rest → decode (.word w) = .ok i → step s = exec i { s with inputs := rest }) ∧
  (∀ (s : State) (i : Instr) (a : Answer) (rest : List Input),
    s.inputs = .answer a :: rest → s.h.inflight = true → decode (.frame s.h.txBytes) = .ok i →
    step s = exec i { s with inputs := rest, answer := some a }) ∧
  (∀ (s : State) (rest : List Input),
    s.inputs = .takeResponse :: rest → step s = .next { s with inputs := rest, responses := s.responses.tail }) ∧
  (∀ s : State, s.inputs = [] → step s = .next s) ∧
  (∀ (s : State) (a : Answer) (rest : List Input),
    s.inputs = .answer a :: rest → s.h.inflight = false → step s = .fault .strayAnswer) ∧
  (∀ (s : State) (a : Answer) (e : FrameError) (rest : List Input),
    s.inputs = .answer a :: rest → s.h.inflight = true → decode (.frame s.h.txBytes) = .error e →
    step s = .refused .noBusFrame)

/-! ## Commands -/

/-- From R121 (acceptance), R122 to R125: an idle block that takes WS, RS, WL or RL issues the one transaction of the
command, in REG_BUSY, and owes its response; nothing else changes. -/
def Obligations.RegisterCommandsIssueTheirTransaction : Prop :=
  ∀ (s : State) (a : Addr16) (v : Byte), s.h.st = .idle →
    (∃ t, exec (.ws a v) s = .next t ∧
      s.issued { s.h with st := .regBusy, pendOp := 0x1#4 } ⟨encodeShortWrite a v, 0#1⟩ t) ∧
    (∃ t, exec (.rs a) s = .next t ∧
      s.issued { s.h with st := .regBusy, pendOp := 0x2#4 } ⟨[encodeShortReadHeader a], 1#1⟩ t) ∧
    (∃ t, exec (.wl a v) s = .next t ∧
      s.issued { s.h with st := .regBusy, pendOp := 0x3#4 } ⟨encodeLongWrite a v, 0#1⟩ t) ∧
    (∃ t, exec (.rl a) s = .next t ∧
      s.issued { s.h with st := .regBusy, pendOp := 0x4#4 } ⟨encodeLongReadHeader a, 1#1⟩ t)

/-- R141: RX opens a session and issues the write of `BB_DISABLE` to the baseband-control register, in its scheme (R158);
while the block is busy it is answered BUSY. -/
def Obligations.ReceiveCommandOpensSession : Prop :=
  ∀ s : State,
    (s.h.st = .idle → ∃ t, exec .rx s = .next t ∧
      s.issued
        { s.h with
          inProgress := true, frameLength := 0xFF#8, pendOp := 0x5#4, err := .ok, errPhase := 0#3, idx := 0#8,
          st := .rxDisable }
        (match s.params.bbScheme with
          | .short => ⟨encodeShortWrite s.params.bbAddr s.params.bbDisable, 0#1⟩
          | .long => ⟨encodeLongWrite s.params.bbAddr s.params.bbDisable, 0#1⟩) t) ∧
    (s.h.st ≠ .idle → exec .rx s = .next { s with responses := s.responses ++ [⟨0x5#4, .busy, 0x00#8⟩] })

/-- From R120, R183: while the block is not idle, each legal command is answered BUSY and nothing else changes. -/
def Obligations.BusyBlockRejectsCommands : Prop :=
  ∀ (s : State) (a : Addr16) (v : Byte), s.h.st ≠ .idle →
    exec (.ws a v) s = .next { s with responses := s.responses ++ [⟨0x1#4, .busy, 0x00#8⟩] } ∧
    exec (.rs a) s = .next { s with responses := s.responses ++ [⟨0x2#4, .busy, 0x00#8⟩] } ∧
    exec (.wl a v) s = .next { s with responses := s.responses ++ [⟨0x3#4, .busy, 0x00#8⟩] } ∧
    exec (.rl a) s = .next { s with responses := s.responses ++ [⟨0x4#4, .busy, 0x00#8⟩] } ∧
    exec .rx s = .next { s with responses := s.responses ++ [⟨0x5#4, .busy, 0x00#8⟩] }

/-- From R80: a reserved OP is answered ILLEGAL in the step that takes it, whatever `h.st`, with no other change and no
transaction. -/
def Obligations.IllegalCommandsOnlyRespond : Prop :=
  ∀ (s : State) (op : Opcode),
    exec .reservedOp0 s = .next { s with responses := s.responses ++ [⟨0x0#4, .illegal, 0x00#8⟩] } ∧
    exec (.reservedOp6to7 op) s = .next { s with responses := s.responses ++ [⟨op, .illegal, 0x00#8⟩] } ∧
    exec (.reservedOp8toF op) s = .next { s with responses := s.responses ++ [⟨op, .illegal, 0x00#8⟩] }

/-- R80, R120: a command word is taken in one step. ILLEGAL is decided first, then BUSY; otherwise the command of its OP
is accepted and puts its transaction on the bus. -/
def Obligations.CommandWordAcceptance : Prop :=
  ∀ (s : State) (w : CommandWord) (rest : List Input), s.inputs = .command w :: rest →
    (¬ legalOp (wordOp w) →
      step s = .next { s with inputs := rest, responses := s.responses ++ [⟨wordOp w, .illegal, 0x00#8⟩] }) ∧
    (legalOp (wordOp w) → s.h.st ≠ .idle →
      step s = .next { s with inputs := rest, responses := s.responses ++ [⟨wordOp w, .busy, 0x00#8⟩] }) ∧
    (s.h.st = .idle → ∃ t, step s = .next t ∧
      (wordOp w = 0x1#4 → exec (.ws (w.extractLsb' 8 16) (w.extractLsb' 0 8)) { s with inputs := rest } = .next t ∧
        t.bus = s.bus ++ [⟨encodeShortWrite (w.extractLsb' 8 16) (w.extractLsb' 0 8), 0#1⟩]) ∧
      (wordOp w = 0x2#4 → exec (.rs (w.extractLsb' 8 16)) { s with inputs := rest } = .next t ∧
        t.bus = s.bus ++ [⟨[encodeShortReadHeader (w.extractLsb' 8 16)], 1#1⟩]) ∧
      (wordOp w = 0x3#4 → exec (.wl (w.extractLsb' 8 16) (w.extractLsb' 0 8)) { s with inputs := rest } = .next t ∧
        t.bus = s.bus ++ [⟨encodeLongWrite (w.extractLsb' 8 16) (w.extractLsb' 0 8), 0#1⟩]) ∧
      (wordOp w = 0x4#4 → exec (.rl (w.extractLsb' 8 16)) { s with inputs := rest } = .next t ∧
        t.bus = s.bus ++ [⟨encodeLongReadHeader (w.extractLsb' 8 16), 1#1⟩]) ∧
      (wordOp w = 0x5#4 → exec .rx { s with inputs := rest } = .next t ∧
        t.bus = s.bus ++ [bbWrite s.params s.params.bbDisable]))

/-- From R78, R80: the bits a command ignores make no difference to the step. -/
def Obligations.IgnoredBitsHaveNoEffect : Prop :=
  ∀ (s : State) (w w' : CommandWord) (rest : List Input),
    w &&& significantBits w = w' &&& significantBits w' →
    step { s with inputs := .command w :: rest } = step { s with inputs := .command w' :: rest }

/-! ## Answers of the transport -/

/-- From R52, R195, R196: each of the four bus frames, answered while its transaction is in flight, completes: the access
it encodes is recorded with its outcome, the answer is consumed, at most one new transaction is issued, and the
environment is untouched. The hypotheses are those of a state of R36: not IDLE, and room for a data byte. -/
def Obligations.AnsweredFramesComplete : Prop :=
  ∀ (i : Instr) (s : State) (a : Answer),
    i.isFrame = true → s.answer = some a → s.h.inflight = true → s.h.st ≠ .idle →
    (s.h.st = .rxData → s.h.idx.toNat < 127) →
    ∃ t, exec i s = .next t ∧
      t.accesses = s.accesses ++ accessesOf i a ∧ t.answer = none ∧ t.params = s.params ∧ t.inputs = s.inputs ∧
      ((t.h.inflight = false ∧ t.h.st = .idle ∧ t.bus = s.bus ∧
          ∃ st d, t.responses = s.responses ++ [⟨s.h.pendOp, st, d⟩]) ∨
        (t.h.inflight = true ∧ t.h.st ≠ .idle ∧ (∃ x, t.bus = s.bus ++ [x]) ∧ t.responses = s.responses))

/-- From R142, R157: without an answer a bus frame waits, in the model a step to the same state (log entry 2). The three
stops are the model's choice for cases the spec rules out (R36, R196; U6) and gives no stop for: an answer to no
transaction (log entry 9), an answer in IDLE (log entry 10), a data byte past index 126 (log entry 11). -/
def Obligations.FramesWaitOrStop : Prop :=
  ∀ (i : Instr) (s : State) (a : Answer), i.isFrame = true →
    (s.answer = none → exec i s = .next s) ∧
    (s.answer = some a → s.h.inflight = false → exec i s = .fault .strayAnswer) ∧
    (s.answer = some a → s.h.inflight = true → s.h.st = .idle → exec i s = .fault .answerWhileIdle) ∧
    (s.answer = some a → s.h.inflight = true → s.h.st = .rxData → a.ok = true → 127 ≤ s.h.idx.toNat →
      exec i s = .fault .frameBufferIndex)

/-- From R121 (response step), R105, R127, R182: the answer to a register command returns the block to IDLE and emits the
one response owed: OK with the received byte of a read or 0x00, or BUS_ERROR with 0x00; no session field changes. -/
def Obligations.RegisterAnswerResponds : Prop :=
  ∀ (i : Instr) (s : State) (a : Answer),
    i.isFrame = true → s.answer = some a → s.h.inflight = true → s.h.st = .regBusy →
    exec i s = .next { s.answered i a with
      h := { s.h with st := .idle, inflight := false }
      responses := s.responses ++
        [if a.ok then ⟨s.h.pendOp, .ok, if s.h.rxn = 1#1 then a.rx else 0x00#8⟩
         else ⟨s.h.pendOp, .busError, 0x00#8⟩] }

/-- R143: the disable write answered: the length read, or the failure path with phase 2. -/
def Obligations.DisableAnswer : Prop :=
  ∀ (i : Instr) (s : State) (a : Answer),
    i.isFrame = true → s.answer = some a → s.h.inflight = true → s.h.st = .rxDisable →
    (a.ok = true → ∃ t, exec i s = .next t ∧
      (s.answered i a).issued { s.h with st := .rxLen }
        ⟨encodeLongReadHeader (s.params.fifoLenAddr.setWidth 16), 1#1⟩ t) ∧
    (a.ok = false → ∃ t, exec i s = .next t ∧
      (s.answered i a).issued (s.h.failed .busError) (bbWrite s.params s.params.bbEnable) t)

/-- From R144: the length read answered: over 127 the session fails with LENGTH, 0 goes to the link-quality read, 1 to 127 to
the drain; each at its FIFO address. -/
def Obligations.LengthAnswer : Prop :=
  ∀ (i : Instr) (s : State) (a : Answer),
    i.isFrame = true → s.answer = some a → s.h.inflight = true → s.h.st = .rxLen →
    (a.ok = false → ∃ t, exec i s = .next t ∧
      (s.answered i a).issued (s.h.failed .busError) (bbWrite s.params s.params.bbEnable) t) ∧
    (a.ok = true → 127 < a.rx.toNat → ∃ t, exec i s = .next t ∧
      (s.answered i a).issued { s.h.failed .length with frameLength := a.rx } (bbWrite s.params s.params.bbEnable) t) ∧
    (a.ok = true → a.rx.toNat = 0 → ∃ t, exec i s = .next t ∧
      (s.answered i a).issued { s.h with frameLength := 0#8, st := .rxLq }
        ⟨encodeLongReadHeader (s.params.fifoDataBase.setWidth 16), 1#1⟩ t) ∧
    (a.ok = true → 1 ≤ a.rx.toNat → a.rx.toNat ≤ 127 → ∃ t, exec i s = .next t ∧
      (s.answered i a).issued { s.h with frameLength := a.rx, idx := 0#8, st := .rxData }
        ⟨encodeLongReadHeader (s.params.fifoDataBase.setWidth 16), 1#1⟩ t)

/-- From R146: a data byte answered: it lands in `h.frame_buffer[h.idx]`, the index advances, and the next read is the data byte
of the new index, or after the last one the link-quality byte; a failure leaves the index. -/
def Obligations.DataAnswer : Prop :=
  ∀ (i : Instr) (s : State) (a : Answer),
    i.isFrame = true → s.answer = some a → s.h.inflight = true → s.h.st = .rxData →
    (a.ok = false → ∃ t, exec i s = .next t ∧
      (s.answered i a).issued (s.h.failed .busError) (bbWrite s.params s.params.bbEnable) t) ∧
    (a.ok = true → s.h.idx.toNat < 127 → s.h.idx + 1#8 = s.h.frameLength → ∃ t, exec i s = .next t ∧
      (s.answered i a).issued
        { s.h with
          frameBuffer := s.h.frameBuffer.setIfInBounds s.h.idx.toNat a.rx, idx := s.h.frameLength, st := .rxLq }
        ⟨encodeLongReadHeader (s.params.fifoDataBase.setWidth 16 + s.h.frameLength.setWidth 16), 1#1⟩ t) ∧
    (a.ok = true → s.h.idx.toNat < 127 → s.h.idx + 1#8 ≠ s.h.frameLength → ∃ t, exec i s = .next t ∧
      (s.answered i a).issued
        { s.h with frameBuffer := s.h.frameBuffer.setIfInBounds s.h.idx.toNat a.rx, idx := s.h.idx + 1#8 }
        ⟨encodeLongReadHeader (s.params.fifoDataBase.setWidth 16 + (s.h.idx + 1#8).setWidth 16), 1#1⟩ t)

/-- R147: the link-quality read answered. -/
def Obligations.LinkQualityAnswer : Prop :=
  ∀ (i : Instr) (s : State) (a : Answer),
    i.isFrame = true → s.answer = some a → s.h.inflight = true → s.h.st = .rxLq →
    (a.ok = false → ∃ t, exec i s = .next t ∧
      (s.answered i a).issued (s.h.failed .busError) (bbWrite s.params s.params.bbEnable) t) ∧
    (a.ok = true → ∃ t, exec i s = .next t ∧
      (s.answered i a).issued { s.h with linkQuality := a.rx, st := .rxSs }
        ⟨encodeLongReadHeader (s.params.fifoDataBase.setWidth 16 + s.h.frameLength.setWidth 16 + 1#16), 1#1⟩ t)

/-- R148: the signal-strength read answered. -/
def Obligations.SignalStrengthAnswer : Prop :=
  ∀ (i : Instr) (s : State) (a : Answer),
    i.isFrame = true → s.answer = some a → s.h.inflight = true → s.h.st = .rxSs →
    (a.ok = false → ∃ t, exec i s = .next t ∧
      (s.answered i a).issued (s.h.failed .busError) (bbWrite s.params s.params.bbEnable) t) ∧
    (a.ok = true → ∃ t, exec i s = .next t ∧
      (s.answered i a).issued { s.h with signalStrength := a.rx, st := .rxEnable }
        (bbWrite s.params s.params.bbEnable) t)

/-- From R150: the re-enable write answered: in one step the session's results are recorded (a failure of this write only if it
is the first error, with phase 7), the session is closed, the block is IDLE, and the completion is emitted. -/
def Obligations.EnableAnswerCompletesSession : Prop :=
  ∀ (i : Instr) (s : State) (a : Answer),
    i.isFrame = true → s.answer = some a → s.h.inflight = true → s.h.st = .rxEnable →
    let e : Status := if a.ok = false ∧ s.h.err = .ok then .busError else s.h.err
    let ph : BitVec 3 := if a.ok = false ∧ s.h.err = .ok then 7#3 else s.h.errPhase
    exec i s = .next { s.answered i a with
      h := { s.h with
        inflight := false, rxEnableOk := a.ok, err := e, errPhase := ph, rxCode := e.code, rxErrPhase := ph,
        inProgress := false, st := .idle }
      responses := s.responses ++ [⟨s.h.pendOp, e, s.h.frameLength⟩] }

/-- From R196: when the transport answers `ok` = 0, `rx` is used by no rule; nor is it when the transaction receives no byte. -/
def Obligations.UnusedReceivedByteHasNoEffect : Prop :=
  ∀ (s : State) (x y : Byte) (rest : List Input),
    step { s with inputs := .answer ⟨false, x⟩ :: rest } = step { s with inputs := .answer ⟨false, y⟩ :: rest } ∧
    (s.Inv → s.h.rxn = 0#1 →
      step { s with inputs := .answer ⟨true, x⟩ :: rest } = step { s with inputs := .answer ⟨true, y⟩ :: rest })

/-! ## Every step -/

/-- R36: its invariants hold after reset, and every step keeps them, from every state in which they hold. -/
def Obligations.StepKeepsBlockInvariants : Prop :=
  (∀ p : Params, (State.resetFor p).h.Inv) ∧ ∀ s t : State, s.h.Inv → step s = .next t → t.h.Inv

/-- From R21, R22, R31, R156, R188: the drain index never exceeds 127 and is 0 before and the length after the drain; an
error is one of the session's statuses and none is recorded before RX_ENABLE. Every step keeps this. -/
def Obligations.StepKeepsDrainInvariants : Prop :=
  ∀ s t : State, s.h.Inv → s.h.DrainInv → step s = .next t → t.h.DrainInv

/-- From R29, R30, R140, R195: what is in flight is always the transaction of the state, owed to the command in progress.
Every step keeps this. -/
def Obligations.StepKeepsTransactionInvariant : Prop :=
  ∀ s t : State, s.Inv → step s = .next t → t.TransactionInv

/-- From R36, R76, R194, R196: in a state that meets the invariants the machine never stops, unless the transport answers
a transaction that is not in flight. -/
def Obligations.InvariantStatesNeverStop : Prop :=
  ∀ s : State, s.Inv → ¬ s.strayNext → ∃ t, step s = .next t

/-- R38: no step writes the parameters. -/
def Obligations.ParametersAreNeverWritten : Prop :=
  ∀ s t : State, step s = .next t → t.params = s.params

/-- R26, R217: `h.inflight` is 1 exactly from an issue to the step that takes its response: a step that finds it 0 sets
it exactly when it issues; a step that finds it 1 and takes no answer (and is no reset) issues nothing and leaves the
transaction fields; a step that takes the answer leaves it 1 exactly when it issues; no step issues two; a step that issues nothing leaves the
transaction fields. -/
def Obligations.SingleTransactionInFlight : Prop :=
  ∀ s t : State, s.h.Inv → step s = .next t → ¬ s.isReset →
    (t.bus = s.bus ∨ ∃ x, t.bus = s.bus ++ [x]) ∧
    (s.h.inflight = false → (t.h.inflight = true ↔ t.bus ≠ s.bus)) ∧
    (∀ a, s.takes a → (t.h.inflight = true ↔ t.bus ≠ s.bus)) ∧
    (t.bus = s.bus → t.h.txbuf = s.h.txbuf ∧ t.h.txlen = s.h.txlen ∧ t.h.rxn = s.h.rxn) ∧
    (s.h.inflight = true → (∀ a, ¬ s.takes a) →
      t.bus = s.bus ∧ t.h.inflight = true ∧ t.h.txbuf = s.h.txbuf ∧ t.h.txlen = s.h.txlen ∧ t.h.rxn = s.h.rxn)

/-- From R157: once a command is accepted nothing but the transport's answers moves the block: however many steps take command
words and the client's takes, no field changes and nothing is issued; the block waits. -/
def Obligations.OnlyAnswersMoveABusyBlock : Prop :=
  ∀ (k : Nat) (s : State), s.h.st ≠ .idle →
    (∀ e ∈ s.inputs, (∃ w, e = Input.command w) ∨ e = Input.takeResponse) →
    ∃ t, run k s = .next t ∧ t.h = s.h ∧ t.bus = s.bus ∧ t.accesses = s.accesses

/-- From R33, R148: the writers of each field. (A reset, R211, is apart. R33 does not name R148 as a writer of the error
fields; R148 itself fails the session, so it is one.) -/
def Obligations.FieldsHaveOnlyTheirWriters : Prop :=
  ∀ s t : State, s.h.Inv → step s = .next t → ¬ s.isReset →
    (t.h.st ≠ s.h.st → (∃ op, s.accepts op) ∨ ∃ a, s.takes a) ∧
    (t.h.idx ≠ s.h.idx → s.accepts 0x5#4 ∨ s.answeredIn .rxLen ∨ s.answeredIn .rxData) ∧
    (t.h.inProgress ≠ s.h.inProgress → s.accepts 0x5#4 ∨ s.answeredIn .rxEnable) ∧
    (t.h.frameLength ≠ s.h.frameLength → s.accepts 0x5#4 ∨ s.answeredIn .rxLen) ∧
    (t.h.frameBuffer ≠ s.h.frameBuffer → s.answeredIn .rxData) ∧
    (t.h.linkQuality ≠ s.h.linkQuality → s.answeredIn .rxLq) ∧
    (t.h.signalStrength ≠ s.h.signalStrength → s.answeredIn .rxSs) ∧
    (t.h.txbuf ≠ s.h.txbuf ∨ t.h.txlen ≠ s.h.txlen ∨ t.h.rxn ≠ s.h.rxn → t.bus ≠ s.bus) ∧
    (t.h.inflight ≠ s.h.inflight → t.bus ≠ s.bus ∨ ∃ a, s.takes a) ∧
    (t.h.pendOp ≠ s.h.pendOp → ∃ op, s.accepts op) ∧
    (t.h.err ≠ s.h.err ∨ t.h.errPhase ≠ s.h.errPhase →
      s.accepts 0x5#4 ∨ s.answeredIn .rxDisable ∨ s.answeredIn .rxLen ∨ s.answeredIn .rxData ∨ s.answeredIn .rxLq ∨
        s.answeredIn .rxSs ∨ s.answeredIn .rxEnable) ∧
    (t.h.rxCode ≠ s.h.rxCode ∨ t.h.rxErrPhase ≠ s.h.rxErrPhase ∨ t.h.rxEnableOk ≠ s.h.rxEnableOk →
      s.answeredIn .rxEnable)

/-- R24: `h.in_progress` is set by the start of a session, cleared by its completion on every path, and written by no
other step; and no step reads it: with another value in it, the step does the same to everything else. -/
def Obligations.InProgressSetAndCleared : Prop :=
  (∀ s t : State, step s = .next t → ¬ s.isReset →
    (s.accepts 0x5#4 → t.h.inProgress = true) ∧
    (s.answeredIn .rxEnable → t.h.inProgress = false) ∧
    (¬ s.accepts 0x5#4 → ¬ s.answeredIn .rxEnable → t.h.inProgress = s.h.inProgress)) ∧
  (∀ (s t : State) (b : Bool), step s = .next t →
    ∃ u, step { s with h := { s.h with inProgress := b } } = .next u ∧
      t = { u with h := { u.h with inProgress := t.h.inProgress } })

/-- R25: `h.frame_length` is 0xFF from the start of a session, takes the byte of a successful length read whatever its
value, and is written by no other step, so it keeps its last value after the session. -/
def Obligations.FrameLengthWrites : Prop :=
  ∀ s t : State, step s = .next t → ¬ s.isReset →
    (s.accepts 0x5#4 → t.h.frameLength = 0xFF#8) ∧
    (∀ a, s.takes a → s.h.st = .rxLen → a.ok = true → t.h.frameLength = a.rx) ∧
    (¬ s.accepts 0x5#4 → (∀ a, s.takes a → s.h.st = .rxLen → a.ok = false) → t.h.frameLength = s.h.frameLength)

/-- R27: byte `j` of the frame buffer is written only by the successful read of data byte `j` of a session, with the byte
received, and only for `j` below the length; every other byte keeps its contents. -/
def Obligations.FrameBufferWrites : Prop :=
  ∀ s t : State, s.h.Inv → step s = .next t → ¬ s.isReset →
    ∀ (j : Nat) (hj : j < 127), t.h.frameBuffer[j] ≠ s.h.frameBuffer[j] →
      ∃ a, s.takes a ∧ s.h.st = .rxData ∧ a.ok = true ∧ j = s.h.idx.toNat ∧ j < s.h.frameLength.toNat ∧
        t.h.frameBuffer[j] = a.rx

/-- R28: the quality bytes are written only by their own successful read, with the byte received. -/
def Obligations.QualityByteWrites : Prop :=
  ∀ s t : State, step s = .next t → ¬ s.isReset →
    (∀ a, s.takes a → s.h.st = .rxLq → a.ok = true → t.h.linkQuality = a.rx) ∧
    ((∀ a, s.takes a → s.h.st = .rxLq → a.ok = false) → t.h.linkQuality = s.h.linkQuality) ∧
    (∀ a, s.takes a → s.h.st = .rxSs → a.ok = true → t.h.signalStrength = a.rx) ∧
    ((∀ a, s.takes a → s.h.st = .rxSs → a.ok = false) → t.h.signalStrength = s.h.signalStrength)

/-- R31: the error flags are cleared at session start; the first failing step writes BUS_ERROR or LENGTH and the code of
its state; a later failure does not overwrite them. -/
def Obligations.FirstErrorWins : Prop :=
  ∀ s t : State, s.h.Inv → step s = .next t → ¬ s.isReset →
    (s.accepts 0x5#4 → t.h.err = .ok ∧ t.h.errPhase = 0#3) ∧
    (s.h.inProgress = true → s.h.err ≠ .ok → t.h.err = s.h.err ∧ t.h.errPhase = s.h.errPhase) ∧
    (s.h.inProgress = true → s.h.err = .ok → ∀ a, s.takes a → a.ok = false →
      t.h.err = .busError ∧ t.h.errPhase = s.h.st.code) ∧
    (s.h.err = .ok → s.h.st = .rxLen → ∀ a, s.takes a → a.ok = true → 127 < a.rx.toNat →
      t.h.err = .length ∧ t.h.errPhase = 3#3) ∧
    (t.h.err ≠ s.h.err ∨ t.h.errPhase ≠ s.h.errPhase → s.accepts 0x5#4 ∨
      ∃ a, s.takes a ∧ s.h.inProgress = true ∧ (a.ok = false ∨ (s.h.st = .rxLen ∧ 127 < a.rx.toNat)))

/-- R32: the result fields are written only at the completion of a session, with its final status, the state of its first
failure, and whether its re-enable write succeeded. -/
def Obligations.ResultFieldsAtCompletion : Prop :=
  ∀ s t : State, step s = .next t → ¬ s.isReset →
    (∀ a, s.takes a → s.h.st = .rxEnable →
      t.h.rxCode = t.h.err.code ∧ t.h.rxErrPhase = t.h.errPhase ∧ t.h.rxEnableOk = a.ok) ∧
    (¬ s.answeredIn .rxEnable →
      t.h.rxCode = s.h.rxCode ∧ t.h.rxErrPhase = s.h.rxErrPhase ∧ t.h.rxEnableOk = s.h.rxEnableOk)

/-- From R182, R183, R121, R151: a step emits at most one response, at the end of the channel; only the client's take
removes one, the oldest. A response other than BUSY and ILLEGAL is emitted exactly by the step that returns the block from
a command in progress to IDLE, for the owed command. -/
def Obligations.ResponsesLeaveInOrder : Prop :=
  ∀ s t : State, s.Inv → step s = .next t → ¬ s.isReset →
    (t.responses = s.responses ∨ (∃ r, t.responses = s.responses ++ [r]) ∨
      ((∃ rest, s.inputs = .takeResponse :: rest) ∧ t.responses = s.responses.tail)) ∧
    (∀ r, t.responses = s.responses ++ [r] →
      ((r.status = .busy ∨ r.status = .illegal) ∧ t.h = s.h) ∨
      (r.op = s.h.pendOp ∧ s.h.st ≠ .idle ∧ t.h.st = .idle)) ∧
    (s.h.st ≠ .idle → t.h.st = .idle → ∃ r, t.responses = s.responses ++ [r] ∧ r.op = s.h.pendOp ∧
      r.status ≠ .busy ∧ r.status ≠ .illegal)

/-- From R64, R151: a session's completion is emitted in the very step that clears `h.in_progress`, and after the
re-enable write's transaction has been answered. -/
def Obligations.CompletionClearsInProgress : Prop :=
  ∀ s t : State, s.Inv → step s = .next t → ¬ s.isReset →
    ((∃ r, t.responses = s.responses ++ [r] ∧ r.op = 0x5#4 ∧ r.status ≠ .busy) ↔
      (s.h.inProgress = true ∧ t.h.inProgress = false)) ∧
    (s.h.inProgress = true → t.h.inProgress = false → s.answeredIn .rxEnable)

/-- R185: a command word and an answer both ready may be taken in either order. The command taken first gets BUSY and the
block moves as it would have; taken after an answer that returns the block to IDLE it is accepted and issues the transaction of
its word (R122 to R125, R141), otherwise it gets BUSY. -/
def Obligations.EitherOrderOfCommandAndAnswer : Prop :=
  ∀ (s : State) (w : CommandWord) (a : Answer) (rest : List Input),
    s.Inv → s.h.st ≠ .idle → legalOp (wordOp w) →
    ∃ t1 t2 u1 u2,
      step { s with inputs := .command w :: .answer a :: rest } = .next t1 ∧ step t1 = .next t2 ∧
      step { s with inputs := .answer a :: .command w :: rest } = .next u1 ∧ step u1 = .next u2 ∧
      t1.h = s.h ∧ t1.responses = s.responses ++ [⟨wordOp w, .busy, 0x00#8⟩] ∧
      t2.h = u1.h ∧ t2.bus = u1.bus ∧
      (u1.h.st = .idle → u2.h.st ≠ .idle ∧ u2.h.pendOp = wordOp w ∧ u2.responses = u1.responses ∧
        u2.bus = u1.bus ++ [commandTransaction s.params w]) ∧
      (u1.h.st ≠ .idle → u2.h = u1.h ∧ u2.bus = u1.bus ∧
        u2.responses = u1.responses ++ [⟨wordOp w, .busy, 0x00#8⟩])

/-- From R23, R143 to R149: the sequencer refines the source's receiver. Under the mapping of R23 a step keeps its place, or
goes from Idle to Receiving by accepting RX; from Receiving to Draining by a successful length read of at most 127; into the
source's step from Draining to Idle by an answer in Draining or by one that fails the session in Receiving (R149 extends that
step to every exit from Receiving); from there to Idle by the answer to the re-enable write; or, outside the receiver, from
IDLE to a register operation by accepting its command and back by its answer. -/
def Obligations.SequencerRefinesSourceStates : Prop :=
  ∀ s t : State, step s = .next t → ¬ s.isReset →
    t.h.st.source = s.h.st.source ∨
    (s.h.st.source = .inState .idle ∧ t.h.st.source = .inState .receiving ∧ s.accepts 0x5#4) ∨
    (s.h.st.source = .inState .receiving ∧ t.h.st.source = .inState .draining ∧ s.h.st = .rxLen ∧
      ∃ a, s.takes a ∧ a.ok = true ∧ a.rx.toNat ≤ 127) ∨
    (s.h.st.source = .inState .receiving ∧ t.h.st.source = .drainingToIdle ∧
      ∃ a, s.takes a ∧ (a.ok = false ∨ s.h.st = .rxLen ∧ 127 < a.rx.toNat)) ∨
    (s.h.st.source = .inState .draining ∧ t.h.st.source = .drainingToIdle ∧
      ∃ a, s.takes a ∧ (a.ok = false ∨ s.h.st = .rxSs)) ∨
    (s.h.st.source = .drainingToIdle ∧ t.h.st.source = .inState .idle ∧ s.answeredIn .rxEnable) ∨
    (s.h.st.source = .inState .idle ∧ t.h.st.source = .outside ∧ ∃ op, op ≠ 0x5#4 ∧ s.accepts op) ∨
    (s.h.st.source = .outside ∧ t.h.st.source = .inState .idle ∧ s.answeredIn .regBusy)

/-! ## Whole sessions -/

/-- From R140, R151, R153, R155: a session whose transactions all succeed with a length of at most 127 issues exactly its
`n + 5` transactions in order, stores the `n` data bytes and nothing past them, the two quality bytes, and completes with
OK and the length. -/
def Obligations.SuccessfulSession : Prop :=
  ∀ (s : State) (w : CommandWord) (data : List Byte) (x y lq ss : Byte) (rest : List Input),
    s.h.st = .idle → wordOp w = 0x5#4 → data.length ≤ 127 →
    s.inputs = .command w :: .answer ⟨true, x⟩ :: .answer ⟨true, BitVec.ofNat 8 data.length⟩ ::
      (okAnswers (data ++ [lq, ss, y]) ++ rest) →
    ∃ t, run (data.length + 6) s = .next t ∧
      t.inputs = rest ∧ t.h.st = .idle ∧ t.h.inflight = false ∧ t.h.inProgress = false ∧
      t.h.frameLength = BitVec.ofNat 8 data.length ∧ t.h.idx = BitVec.ofNat 8 data.length ∧
      (∀ (j : Nat) (hj : j < 127), t.h.frameBuffer[j] = data[j]?.getD s.h.frameBuffer[j]) ∧
      t.h.linkQuality = lq ∧ t.h.signalStrength = ss ∧
      t.h.err = .ok ∧ t.h.errPhase = 0#3 ∧ t.h.rxCode = 0#3 ∧ t.h.rxErrPhase = 0#3 ∧ t.h.rxEnableOk = true ∧
      t.responses = s.responses ++ [⟨0x5#4, .ok, BitVec.ofNat 8 data.length⟩] ∧
      t.bus = s.bus ++ sessionTransactions s.params data.length ∧
      (sessionTransactions s.params data.length).length = data.length + 5

/-- From R143, R144, R149, R151, R154, R155: a session whose disable write fails issues 2 transactions; one whose length
read fails, or reads more than 127, issues 3 and reads nothing more of the FIFO. Each ends with the re-enable write and
the completion of its first error, the frame buffer and the quality bytes as they were. -/
def Obligations.SessionEndsBeforeDrain : Prop :=
  ∀ (s : State) (w : CommandWord) (x y n : Byte) (e : Bool) (rest : List Input),
    s.h.st = .idle → wordOp w = 0x5#4 →
    (s.inputs = .command w :: .answer ⟨false, x⟩ :: .answer ⟨e, y⟩ :: rest →
      ∃ t, run 3 s = .next t ∧ t.inputs = rest ∧ t.h.st = .idle ∧ t.h.inProgress = false ∧
        t.h.frameLength = 0xFF#8 ∧ t.h.frameBuffer = s.h.frameBuffer ∧ t.h.linkQuality = s.h.linkQuality ∧
        t.h.signalStrength = s.h.signalStrength ∧
        t.h.rxCode = 1#3 ∧ t.h.rxErrPhase = 2#3 ∧ t.h.rxEnableOk = e ∧
        t.responses = s.responses ++ [⟨0x5#4, .busError, 0xFF#8⟩] ∧
        t.bus = s.bus ++ [bbWrite s.params s.params.bbDisable, bbWrite s.params s.params.bbEnable]) ∧
    (s.inputs = .command w :: .answer ⟨true, x⟩ :: .answer ⟨false, n⟩ :: .answer ⟨e, y⟩ :: rest →
      ∃ t, run 4 s = .next t ∧ t.inputs = rest ∧ t.h.st = .idle ∧ t.h.inProgress = false ∧
        t.h.frameLength = 0xFF#8 ∧ t.h.frameBuffer = s.h.frameBuffer ∧ t.h.linkQuality = s.h.linkQuality ∧
        t.h.signalStrength = s.h.signalStrength ∧
        t.h.rxCode = 1#3 ∧ t.h.rxErrPhase = 3#3 ∧ t.h.rxEnableOk = e ∧
        t.responses = s.responses ++ [⟨0x5#4, .busError, 0xFF#8⟩] ∧
        t.bus = s.bus ++ [bbWrite s.params s.params.bbDisable, fifoRead (fifoLenAddr s.params),
          bbWrite s.params s.params.bbEnable]) ∧
    (127 < n.toNat →
      s.inputs = .command w :: .answer ⟨true, x⟩ :: .answer ⟨true, n⟩ :: .answer ⟨e, y⟩ :: rest →
      ∃ t, run 4 s = .next t ∧ t.inputs = rest ∧ t.h.st = .idle ∧ t.h.inProgress = false ∧
        t.h.frameLength = n ∧ t.h.frameBuffer = s.h.frameBuffer ∧ t.h.linkQuality = s.h.linkQuality ∧
        t.h.signalStrength = s.h.signalStrength ∧
        t.h.rxCode = 4#3 ∧ t.h.rxErrPhase = 3#3 ∧ t.h.rxEnableOk = e ∧
        t.responses = s.responses ++ [⟨0x5#4, .length, n⟩] ∧
        t.bus = s.bus ++ [bbWrite s.params s.params.bbDisable, fifoRead (fifoLenAddr s.params),
          bbWrite s.params s.params.bbEnable])

/-- From R146, R149, R151, R155, R156, R188: a session that fails at data byte `k` of `n` issues `k + 4` transactions, the
last of them the re-enable write whatever its outcome; bytes 0 to `k - 1` are stored and nothing else of the frame, the
index stays at `k`, and the completion carries BUS_ERROR and the length. -/
def Obligations.SessionFailsInDrain : Prop :=
  ∀ (s : State) (w : CommandWord) (data : List Byte) (n x y z : Byte) (e : Bool) (rest : List Input),
    s.h.st = .idle → wordOp w = 0x5#4 → n.toNat ≤ 127 → data.length < n.toNat →
    s.inputs = .command w :: .answer ⟨true, x⟩ :: .answer ⟨true, n⟩ ::
      (okAnswers data ++ .answer ⟨false, y⟩ :: .answer ⟨e, z⟩ :: rest) →
    ∃ t, run (data.length + 5) s = .next t ∧
      t.inputs = rest ∧ t.h.st = .idle ∧ t.h.inflight = false ∧ t.h.inProgress = false ∧
      t.h.frameLength = n ∧ t.h.idx = BitVec.ofNat 8 data.length ∧
      (∀ (j : Nat) (hj : j < 127), t.h.frameBuffer[j] = data[j]?.getD s.h.frameBuffer[j]) ∧
      t.h.linkQuality = s.h.linkQuality ∧ t.h.signalStrength = s.h.signalStrength ∧
      t.h.err = .busError ∧ t.h.errPhase = 4#3 ∧ t.h.rxCode = 1#3 ∧ t.h.rxErrPhase = 4#3 ∧ t.h.rxEnableOk = e ∧
      t.responses = s.responses ++ [⟨0x5#4, .busError, n⟩] ∧
      t.bus = s.bus ++ (drainTransactions s.params (data.length + 1) ++ [bbWrite s.params s.params.bbEnable])

/-- From R147, R148, R150, R151, R155, R156: a session of length `n` that fails at the link-quality read issues `n + 4`
transactions, at the signal-strength read `n + 5`, at the re-enable write `n + 5`; the error phase is 5, 6 or 7, and a
quality byte is stored only if its own read succeeded. -/
def Obligations.SessionFailsAfterDrain : Prop :=
  ∀ (s : State) (w : CommandWord) (data : List Byte) (x y z lq ss : Byte) (e : Bool) (rest : List Input),
    s.h.st = .idle → wordOp w = 0x5#4 → data.length ≤ 127 →
    (s.inputs = .command w :: .answer ⟨true, x⟩ :: .answer ⟨true, BitVec.ofNat 8 data.length⟩ ::
        (okAnswers data ++ .answer ⟨false, y⟩ :: .answer ⟨e, z⟩ :: rest) →
      ∃ t, run (data.length + 5) s = .next t ∧ t.inputs = rest ∧ t.h.st = .idle ∧ t.h.inProgress = false ∧
        (∀ (j : Nat) (hj : j < 127), t.h.frameBuffer[j] = data[j]?.getD s.h.frameBuffer[j]) ∧
        t.h.linkQuality = s.h.linkQuality ∧ t.h.signalStrength = s.h.signalStrength ∧
        t.h.rxCode = 1#3 ∧ t.h.rxErrPhase = 5#3 ∧ t.h.rxEnableOk = e ∧
        t.responses = s.responses ++ [⟨0x5#4, .busError, BitVec.ofNat 8 data.length⟩] ∧
        t.bus = s.bus ++ (drainTransactions s.params data.length ++
          [fifoRead (fifoDataAddr s.params (BitVec.ofNat 8 data.length)), bbWrite s.params s.params.bbEnable])) ∧
    (s.inputs = .command w :: .answer ⟨true, x⟩ :: .answer ⟨true, BitVec.ofNat 8 data.length⟩ ::
        (okAnswers (data ++ [lq]) ++ .answer ⟨false, y⟩ :: .answer ⟨e, z⟩ :: rest) →
      ∃ t, run (data.length + 6) s = .next t ∧ t.inputs = rest ∧ t.h.st = .idle ∧ t.h.inProgress = false ∧
        (∀ (j : Nat) (hj : j < 127), t.h.frameBuffer[j] = data[j]?.getD s.h.frameBuffer[j]) ∧
        t.h.linkQuality = lq ∧ t.h.signalStrength = s.h.signalStrength ∧
        t.h.rxCode = 1#3 ∧ t.h.rxErrPhase = 6#3 ∧ t.h.rxEnableOk = e ∧
        t.responses = s.responses ++ [⟨0x5#4, .busError, BitVec.ofNat 8 data.length⟩] ∧
        t.bus = s.bus ++ sessionTransactions s.params data.length) ∧
    (s.inputs = .command w :: .answer ⟨true, x⟩ :: .answer ⟨true, BitVec.ofNat 8 data.length⟩ ::
        (okAnswers (data ++ [lq, ss]) ++ .answer ⟨false, z⟩ :: rest) →
      ∃ t, run (data.length + 6) s = .next t ∧ t.inputs = rest ∧ t.h.st = .idle ∧ t.h.inProgress = false ∧
        (∀ (j : Nat) (hj : j < 127), t.h.frameBuffer[j] = data[j]?.getD s.h.frameBuffer[j]) ∧
        t.h.linkQuality = lq ∧ t.h.signalStrength = ss ∧
        t.h.rxCode = 1#3 ∧ t.h.rxErrPhase = 7#3 ∧ t.h.rxEnableOk = false ∧
        t.responses = s.responses ++ [⟨0x5#4, .busError, BitVec.ofNat 8 data.length⟩] ∧
        t.bus = s.bus ++ sessionTransactions s.params data.length)

/-- From R151, R187, R198: if the transport answers every transaction, whatever it answers, an open session completes
within 132 answers, with exactly one response, its completion, and the block is ready for a new command. -/
def Obligations.AnsweredSessionsComplete : Prop :=
  ∀ (s : State) (answers : List Answer) (rest : List Input),
    s.Inv → s.h.inProgress = true → 132 ≤ answers.length → s.inputs = answers.map Input.answer ++ rest →
    ∃ k ≤ 132, ∃ t, run k s = .next t ∧ t.h.st = .idle ∧ t.h.inProgress = false ∧ t.Inv ∧
      ∃ st : Status, (st = .ok ∨ st = .busError ∨ st = .length) ∧
        t.responses = s.responses ++ [⟨0x5#4, st, t.h.frameLength⟩]
end

