-- ==== Sys2Proof/Laws/Codec.lean ====
section
/-! SUPPORT. The fields of the encodings: what each header byte and the command word hold at each of their fields
(spec/30_encoding.md R71, R73, R74, R78). -/

namespace Sys2Proof

/-- Two bytes with the same eight bits are equal. -/
theorem byte_eq_of_bits {x y : Byte} (h0 : x.getLsbD 0 = y.getLsbD 0) (h1 : x.getLsbD 1 = y.getLsbD 1)
    (h2 : x.getLsbD 2 = y.getLsbD 2) (h3 : x.getLsbD 3 = y.getLsbD 3) (h4 : x.getLsbD 4 = y.getLsbD 4)
    (h5 : x.getLsbD 5 = y.getLsbD 5) (h6 : x.getLsbD 6 = y.getLsbD 6) (h7 : x.getLsbD 7 = y.getLsbD 7) : x = y := by
  apply BitVec.eq_of_getLsbD_eq
  intro i hi
  obtain rfl | rfl | rfl | rfl | rfl | rfl | rfl | rfl :
    i = 0 ∨ i = 1 ∨ i = 2 ∨ i = 3 ∨ i = 4 ∨ i = 5 ∨ i = 6 ∨ i = 7 := by omega
  all_goals assumption

/-! ## The short header -/

theorem shortHeader_scheme (a : ShortAddr) (w : BitVec 1) : (shortHeader a w)[7] = false := by
  rw [← BitVec.getLsbD_eq_getElem]; unfold shortHeader; simp only [BitVec.getLsbD_append]; simp

theorem shortHeader_write (a : ShortAddr) (w : BitVec 1) : (shortHeader a w)[0] = w[0] := by
  rw [← BitVec.getLsbD_eq_getElem]; unfold shortHeader; simp only [BitVec.getLsbD_append]; simp

theorem shortHeader_addr (a : ShortAddr) (w : BitVec 1) : (shortHeader a w).extractLsb' 1 6 = a := by
  apply BitVec.eq_of_getLsbD_eq
  intro i hi
  have h1 : ¬ (1 + i < 1) := by omega
  unfold shortHeader
  simp only [BitVec.getLsbD_extractLsb', BitVec.getLsbD_append, h1, hi, if_false, Nat.add_sub_cancel_left]
  simp

/-! ## The long header -/

theorem longHeader0_scheme (a : LongAddr) : (longHeader0 a)[7] = true := by
  rw [← BitVec.getLsbD_eq_getElem]; unfold longHeader0; simp only [BitVec.getLsbD_append]; simp

theorem longHeader0_addr (a : LongAddr) : (longHeader0 a).extractLsb' 0 7 = a.extractLsb' 3 7 := by
  apply BitVec.eq_of_getLsbD_eq
  intro i hi
  unfold longHeader0
  simp only [BitVec.getLsbD_extractLsb', BitVec.getLsbD_append, hi, if_true, Nat.zero_add]
  simp

theorem longHeader1_write (a : LongAddr) (w : BitVec 1) : (longHeader1 a w)[4] = w[0] := by
  rw [← BitVec.getLsbD_eq_getElem]; unfold longHeader1; simp only [BitVec.getLsbD_append]; simp

theorem longHeader1_zero (a : LongAddr) (w : BitVec 1) : (longHeader1 a w).extractLsb' 0 4 = 0#4 := by
  apply BitVec.eq_of_getLsbD_eq
  intro i hi
  unfold longHeader1
  simp only [BitVec.getLsbD_extractLsb', BitVec.getLsbD_append, hi, if_true, Nat.zero_add]
  simp

theorem longHeader1_addr (a : LongAddr) (w : BitVec 1) : (longHeader1 a w).extractLsb' 5 3 = a.extractLsb' 0 3 := by
  apply BitVec.eq_of_getLsbD_eq
  intro i hi
  have h1 : ¬ (5 + i < 4) := by omega
  have h2 : ¬ (5 + i - 4 < 1) := by omega
  have h3 : 5 + i - 4 - 1 = i := by omega
  unfold longHeader1
  simp only [BitVec.getLsbD_extractLsb', BitVec.getLsbD_append, h1, h2, h3, hi, if_false]
  simp

/-- The two fields of a long header are its address (R73, R74). -/
theorem longAddrOf_fields (a : LongAddr) : longAddrOf (a.extractLsb' 3 7) (a.extractLsb' 0 3) = a := by
  apply BitVec.eq_of_getLsbD_eq
  intro i hi
  unfold longAddrOf
  simp only [BitVec.getLsbD_append, BitVec.getLsbD_extractLsb']
  split
  · simp [*]
  · rw [show 3 + (i - 3) = i by omega]; simp; omega

/-! ## The command word -/

theorem wordOp_commandWord (op : Opcode) (rsv : BitVec 4) (a : Addr16) (v : Byte) :
    wordOp (commandWord op rsv a v) = op := by
  apply BitVec.eq_of_getLsbD_eq
  intro i hi
  have h1 : ¬ (28 + i < 8) := by omega
  have h2 : ¬ (28 + i - 8 < 16) := by omega
  have h3 : ¬ (28 + i - 8 - 16 < 4) := by omega
  have h4 : 28 + i - 8 - 16 - 4 = i := by omega
  unfold wordOp commandWord
  simp only [BitVec.getLsbD_extractLsb', BitVec.getLsbD_append, h1, h2, h3, h4, hi, if_false]
  simp

theorem wordAddr_commandWord (op : Opcode) (rsv : BitVec 4) (a : Addr16) (v : Byte) :
    wordAddr (commandWord op rsv a v) = a := by
  apply BitVec.eq_of_getLsbD_eq
  intro i hi
  have h1 : ¬ (8 + i < 8) := by omega
  have h2 : 8 + i - 8 < 16 := by omega
  have h3 : 8 + i - 8 = i := by omega
  unfold wordAddr commandWord
  simp only [BitVec.getLsbD_extractLsb', BitVec.getLsbD_append, h1, h3, hi, if_false, if_true]
  simp

theorem wordValue_commandWord (op : Opcode) (rsv : BitVec 4) (a : Addr16) (v : Byte) :
    wordValue (commandWord op rsv a v) = v := by
  apply BitVec.eq_of_getLsbD_eq
  intro i hi
  unfold wordValue commandWord
  simp only [BitVec.getLsbD_extractLsb', BitVec.getLsbD_append, hi, if_true, Nat.zero_add]
  simp

end Sys2Proof
end

