-- ==== Sys2Proof/Laws/State.lean ====
section
/-! SUPPORT. One lemma per field per update: what each named operation leaves of every field of State, so that no later
proof unfolds a record update. -/

namespace Sys2Proof.Machine

/-! ## respond, respondOwed, clientTakes, rejectIllegal -/

@[simp] theorem respond_h (op : Opcode) (st : Status) (d : Byte) (s : State) : (respond op st d s).h = s.h := rfl

@[simp] theorem respond_params (op : Opcode) (st : Status) (d : Byte) (s : State) : (respond op st d s).params = s.params := rfl

@[simp] theorem respond_inputs (op : Opcode) (st : Status) (d : Byte) (s : State) : (respond op st d s).inputs = s.inputs := rfl

@[simp] theorem respond_responses (op : Opcode) (st : Status) (d : Byte) (s : State) : (respond op st d s).responses = s.responses ++ [⟨op, st, d⟩] := rfl

@[simp] theorem respond_answer (op : Opcode) (st : Status) (d : Byte) (s : State) : (respond op st d s).answer = s.answer := rfl

@[simp] theorem respond_bus (op : Opcode) (st : Status) (d : Byte) (s : State) : (respond op st d s).bus = s.bus := rfl

@[simp] theorem respond_accesses (op : Opcode) (st : Status) (d : Byte) (s : State) : (respond op st d s).accesses = s.accesses := rfl

@[simp] theorem respond_draws (op : Opcode) (st : Status) (d : Byte) (s : State) : (respond op st d s).draws = s.draws := rfl

@[simp] theorem respondOwed_h (st : Status) (d : Byte) (s : State) : (respondOwed st d s).h = s.h := rfl

@[simp] theorem respondOwed_params (st : Status) (d : Byte) (s : State) : (respondOwed st d s).params = s.params := rfl

@[simp] theorem respondOwed_inputs (st : Status) (d : Byte) (s : State) : (respondOwed st d s).inputs = s.inputs := rfl

@[simp] theorem respondOwed_responses (st : Status) (d : Byte) (s : State) : (respondOwed st d s).responses = s.responses ++ [⟨s.h.pendOp, st, d⟩] := rfl

@[simp] theorem respondOwed_answer (st : Status) (d : Byte) (s : State) : (respondOwed st d s).answer = s.answer := rfl

@[simp] theorem respondOwed_bus (st : Status) (d : Byte) (s : State) : (respondOwed st d s).bus = s.bus := rfl

@[simp] theorem respondOwed_accesses (st : Status) (d : Byte) (s : State) : (respondOwed st d s).accesses = s.accesses := rfl

@[simp] theorem respondOwed_draws (st : Status) (d : Byte) (s : State) : (respondOwed st d s).draws = s.draws := rfl

@[simp] theorem clientTakes_h (s : State) : (clientTakes s).h = s.h := rfl

@[simp] theorem clientTakes_params (s : State) : (clientTakes s).params = s.params := rfl

@[simp] theorem clientTakes_inputs (s : State) : (clientTakes s).inputs = s.inputs := rfl

@[simp] theorem clientTakes_responses (s : State) : (clientTakes s).responses = s.responses.tail := rfl

@[simp] theorem clientTakes_answer (s : State) : (clientTakes s).answer = s.answer := rfl

@[simp] theorem clientTakes_bus (s : State) : (clientTakes s).bus = s.bus := rfl

@[simp] theorem clientTakes_accesses (s : State) : (clientTakes s).accesses = s.accesses := rfl

@[simp] theorem clientTakes_draws (s : State) : (clientTakes s).draws = s.draws := rfl

@[simp] theorem rejectIllegal_h (op : Opcode) (s : State) : (rejectIllegal op s).h = s.h := rfl

@[simp] theorem rejectIllegal_params (op : Opcode) (s : State) : (rejectIllegal op s).params = s.params := rfl

@[simp] theorem rejectIllegal_inputs (op : Opcode) (s : State) : (rejectIllegal op s).inputs = s.inputs := rfl

@[simp] theorem rejectIllegal_responses (op : Opcode) (s : State) : (rejectIllegal op s).responses = s.responses ++ [⟨op, .illegal, 0x00#8⟩] := rfl

@[simp] theorem rejectIllegal_answer (op : Opcode) (s : State) : (rejectIllegal op s).answer = s.answer := rfl

@[simp] theorem rejectIllegal_bus (op : Opcode) (s : State) : (rejectIllegal op s).bus = s.bus := rfl

@[simp] theorem rejectIllegal_accesses (op : Opcode) (s : State) : (rejectIllegal op s).accesses = s.accesses := rfl

@[simp] theorem rejectIllegal_draws (op : Opcode) (s : State) : (rejectIllegal op s).draws = s.draws := rfl

/-! ## issue -/

@[simp] theorem issue_st (x : Transaction) (s : State) : (issue x s).h.st = s.h.st := rfl

@[simp] theorem issue_idx (x : Transaction) (s : State) : (issue x s).h.idx = s.h.idx := rfl

@[simp] theorem issue_inProgress (x : Transaction) (s : State) : (issue x s).h.inProgress = s.h.inProgress := rfl

@[simp] theorem issue_frameLength (x : Transaction) (s : State) : (issue x s).h.frameLength = s.h.frameLength := rfl

@[simp] theorem issue_frameBuffer (x : Transaction) (s : State) : (issue x s).h.frameBuffer = s.h.frameBuffer := rfl

@[simp] theorem issue_linkQuality (x : Transaction) (s : State) : (issue x s).h.linkQuality = s.h.linkQuality := rfl

@[simp] theorem issue_signalStrength (x : Transaction) (s : State) : (issue x s).h.signalStrength = s.h.signalStrength := rfl

@[simp] theorem issue_txbuf (x : Transaction) (s : State) : (issue x s).h.txbuf = txBuffer x.bytes s.draws := rfl

@[simp] theorem issue_txlen (x : Transaction) (s : State) : (issue x s).h.txlen = BitVec.ofNat 2 x.bytes.length := rfl

@[simp] theorem issue_rxn (x : Transaction) (s : State) : (issue x s).h.rxn = x.rxn := rfl

@[simp] theorem issue_inflight (x : Transaction) (s : State) : (issue x s).h.inflight = true := rfl

@[simp] theorem issue_pendOp (x : Transaction) (s : State) : (issue x s).h.pendOp = s.h.pendOp := rfl

@[simp] theorem issue_err (x : Transaction) (s : State) : (issue x s).h.err = s.h.err := rfl

@[simp] theorem issue_errPhase (x : Transaction) (s : State) : (issue x s).h.errPhase = s.h.errPhase := rfl

@[simp] theorem issue_rxCode (x : Transaction) (s : State) : (issue x s).h.rxCode = s.h.rxCode := rfl

@[simp] theorem issue_rxErrPhase (x : Transaction) (s : State) : (issue x s).h.rxErrPhase = s.h.rxErrPhase := rfl

@[simp] theorem issue_rxEnableOk (x : Transaction) (s : State) : (issue x s).h.rxEnableOk = s.h.rxEnableOk := rfl

@[simp] theorem issue_params (x : Transaction) (s : State) : (issue x s).params = s.params := rfl

@[simp] theorem issue_inputs (x : Transaction) (s : State) : (issue x s).inputs = s.inputs := rfl

@[simp] theorem issue_responses (x : Transaction) (s : State) : (issue x s).responses = s.responses := rfl

@[simp] theorem issue_answer (x : Transaction) (s : State) : (issue x s).answer = s.answer := rfl

@[simp] theorem issue_bus (x : Transaction) (s : State) : (issue x s).bus = s.bus ++ [x] := rfl

@[simp] theorem issue_accesses (x : Transaction) (s : State) : (issue x s).accesses = s.accesses := rfl

@[simp] theorem issue_draws (x : Transaction) (s : State) : (issue x s).draws = s.draws + 1 := rfl

/-! ## finishTransaction -/

@[simp] theorem finishTransaction_st (sp : Scheme) (ad : LongAddr) (k : AccessKind) (a : Answer) (s : State) : (finishTransaction sp ad k a s).h.st = s.h.st := rfl

@[simp] theorem finishTransaction_idx (sp : Scheme) (ad : LongAddr) (k : AccessKind) (a : Answer) (s : State) : (finishTransaction sp ad k a s).h.idx = s.h.idx := rfl

@[simp] theorem finishTransaction_inProgress (sp : Scheme) (ad : LongAddr) (k : AccessKind) (a : Answer) (s : State) : (finishTransaction sp ad k a s).h.inProgress = s.h.inProgress := rfl

@[simp] theorem finishTransaction_frameLength (sp : Scheme) (ad : LongAddr) (k : AccessKind) (a : Answer) (s : State) : (finishTransaction sp ad k a s).h.frameLength = s.h.frameLength := rfl

@[simp] theorem finishTransaction_frameBuffer (sp : Scheme) (ad : LongAddr) (k : AccessKind) (a : Answer) (s : State) : (finishTransaction sp ad k a s).h.frameBuffer = s.h.frameBuffer := rfl

@[simp] theorem finishTransaction_linkQuality (sp : Scheme) (ad : LongAddr) (k : AccessKind) (a : Answer) (s : State) : (finishTransaction sp ad k a s).h.linkQuality = s.h.linkQuality := rfl

@[simp] theorem finishTransaction_signalStrength (sp : Scheme) (ad : LongAddr) (k : AccessKind) (a : Answer) (s : State) : (finishTransaction sp ad k a s).h.signalStrength = s.h.signalStrength := rfl

@[simp] theorem finishTransaction_txbuf (sp : Scheme) (ad : LongAddr) (k : AccessKind) (a : Answer) (s : State) : (finishTransaction sp ad k a s).h.txbuf = s.h.txbuf := rfl

@[simp] theorem finishTransaction_txlen (sp : Scheme) (ad : LongAddr) (k : AccessKind) (a : Answer) (s : State) : (finishTransaction sp ad k a s).h.txlen = s.h.txlen := rfl

@[simp] theorem finishTransaction_rxn (sp : Scheme) (ad : LongAddr) (k : AccessKind) (a : Answer) (s : State) : (finishTransaction sp ad k a s).h.rxn = s.h.rxn := rfl

@[simp] theorem finishTransaction_inflight (sp : Scheme) (ad : LongAddr) (k : AccessKind) (a : Answer) (s : State) : (finishTransaction sp ad k a s).h.inflight = false := rfl

@[simp] theorem finishTransaction_pendOp (sp : Scheme) (ad : LongAddr) (k : AccessKind) (a : Answer) (s : State) : (finishTransaction sp ad k a s).h.pendOp = s.h.pendOp := rfl

@[simp] theorem finishTransaction_err (sp : Scheme) (ad : LongAddr) (k : AccessKind) (a : Answer) (s : State) : (finishTransaction sp ad k a s).h.err = s.h.err := rfl

@[simp] theorem finishTransaction_errPhase (sp : Scheme) (ad : LongAddr) (k : AccessKind) (a : Answer) (s : State) : (finishTransaction sp ad k a s).h.errPhase = s.h.errPhase := rfl

@[simp] theorem finishTransaction_rxCode (sp : Scheme) (ad : LongAddr) (k : AccessKind) (a : Answer) (s : State) : (finishTransaction sp ad k a s).h.rxCode = s.h.rxCode := rfl

@[simp] theorem finishTransaction_rxErrPhase (sp : Scheme) (ad : LongAddr) (k : AccessKind) (a : Answer) (s : State) : (finishTransaction sp ad k a s).h.rxErrPhase = s.h.rxErrPhase := rfl

@[simp] theorem finishTransaction_rxEnableOk (sp : Scheme) (ad : LongAddr) (k : AccessKind) (a : Answer) (s : State) : (finishTransaction sp ad k a s).h.rxEnableOk = s.h.rxEnableOk := rfl

@[simp] theorem finishTransaction_params (sp : Scheme) (ad : LongAddr) (k : AccessKind) (a : Answer) (s : State) : (finishTransaction sp ad k a s).params = s.params := rfl

@[simp] theorem finishTransaction_inputs (sp : Scheme) (ad : LongAddr) (k : AccessKind) (a : Answer) (s : State) : (finishTransaction sp ad k a s).inputs = s.inputs := rfl

@[simp] theorem finishTransaction_responses (sp : Scheme) (ad : LongAddr) (k : AccessKind) (a : Answer) (s : State) : (finishTransaction sp ad k a s).responses = s.responses := rfl

@[simp] theorem finishTransaction_answer (sp : Scheme) (ad : LongAddr) (k : AccessKind) (a : Answer) (s : State) : (finishTransaction sp ad k a s).answer = none := rfl

@[simp] theorem finishTransaction_bus (sp : Scheme) (ad : LongAddr) (k : AccessKind) (a : Answer) (s : State) : (finishTransaction sp ad k a s).bus = s.bus := rfl

@[simp] theorem finishTransaction_accesses (sp : Scheme) (ad : LongAddr) (k : AccessKind) (a : Answer) (s : State) : (finishTransaction sp ad k a s).accesses = s.accesses ++ [⟨sp, ad, k, accessOutcome k a⟩] := rfl

@[simp] theorem finishTransaction_draws (sp : Scheme) (ad : LongAddr) (k : AccessKind) (a : Answer) (s : State) : (finishTransaction sp ad k a s).draws = s.draws := rfl

/-! ## resetBlock -/

@[simp] theorem resetBlock_h (s : State) : (resetBlock s).h = Handle.reset s.draws := rfl

@[simp] theorem resetBlock_params (s : State) : (resetBlock s).params = s.params := rfl

@[simp] theorem resetBlock_inputs (s : State) : (resetBlock s).inputs = s.inputs := rfl

@[simp] theorem resetBlock_responses (s : State) : (resetBlock s).responses = s.responses := rfl

@[simp] theorem resetBlock_answer (s : State) : (resetBlock s).answer = none := rfl

@[simp] theorem resetBlock_bus (s : State) : (resetBlock s).bus = s.bus := rfl

@[simp] theorem resetBlock_accesses (s : State) : (resetBlock s).accesses = s.accesses := rfl

@[simp] theorem resetBlock_draws (s : State) : (resetBlock s).draws = s.draws + 1 := rfl

/-! ## Error flags -/

@[simp] theorem Handle.recordError_st (h : Handle) (c : Status) : (h.recordError c).st = h.st := by unfold Handle.recordError; split <;> rfl

@[simp] theorem Handle.recordError_idx (h : Handle) (c : Status) : (h.recordError c).idx = h.idx := by unfold Handle.recordError; split <;> rfl

@[simp] theorem Handle.recordError_inProgress (h : Handle) (c : Status) : (h.recordError c).inProgress = h.inProgress := by unfold Handle.recordError; split <;> rfl

@[simp] theorem Handle.recordError_frameLength (h : Handle) (c : Status) : (h.recordError c).frameLength = h.frameLength := by unfold Handle.recordError; split <;> rfl

@[simp] theorem Handle.recordError_frameBuffer (h : Handle) (c : Status) : (h.recordError c).frameBuffer = h.frameBuffer := by unfold Handle.recordError; split <;> rfl

@[simp] theorem Handle.recordError_linkQuality (h : Handle) (c : Status) : (h.recordError c).linkQuality = h.linkQuality := by unfold Handle.recordError; split <;> rfl

@[simp] theorem Handle.recordError_signalStrength (h : Handle) (c : Status) : (h.recordError c).signalStrength = h.signalStrength := by unfold Handle.recordError; split <;> rfl

@[simp] theorem Handle.recordError_txbuf (h : Handle) (c : Status) : (h.recordError c).txbuf = h.txbuf := by unfold Handle.recordError; split <;> rfl

@[simp] theorem Handle.recordError_txlen (h : Handle) (c : Status) : (h.recordError c).txlen = h.txlen := by unfold Handle.recordError; split <;> rfl

@[simp] theorem Handle.recordError_rxn (h : Handle) (c : Status) : (h.recordError c).rxn = h.rxn := by unfold Handle.recordError; split <;> rfl

@[simp] theorem Handle.recordError_inflight (h : Handle) (c : Status) : (h.recordError c).inflight = h.inflight := by unfold Handle.recordError; split <;> rfl

@[simp] theorem Handle.recordError_pendOp (h : Handle) (c : Status) : (h.recordError c).pendOp = h.pendOp := by unfold Handle.recordError; split <;> rfl

@[simp] theorem Handle.recordError_rxCode (h : Handle) (c : Status) : (h.recordError c).rxCode = h.rxCode := by unfold Handle.recordError; split <;> rfl

@[simp] theorem Handle.recordError_rxErrPhase (h : Handle) (c : Status) : (h.recordError c).rxErrPhase = h.rxErrPhase := by unfold Handle.recordError; split <;> rfl

@[simp] theorem Handle.recordError_rxEnableOk (h : Handle) (c : Status) : (h.recordError c).rxEnableOk = h.rxEnableOk := by unfold Handle.recordError; split <;> rfl

theorem Handle.recordError_err (h : Handle) (c : Status) :
    (h.recordError c).err = if h.err = .ok then c else h.err := by
  unfold Handle.recordError; split <;> rfl

theorem Handle.recordError_errPhase (h : Handle) (c : Status) :
    (h.recordError c).errPhase = if h.err = .ok then h.st.code else h.errPhase := by
  unfold Handle.recordError; split <;> rfl

@[simp] theorem Handle.clearError_st (h : Handle) : h.clearError.st = h.st := rfl

@[simp] theorem Handle.clearError_idx (h : Handle) : h.clearError.idx = h.idx := rfl

@[simp] theorem Handle.clearError_inProgress (h : Handle) : h.clearError.inProgress = h.inProgress := rfl

@[simp] theorem Handle.clearError_frameLength (h : Handle) : h.clearError.frameLength = h.frameLength := rfl

@[simp] theorem Handle.clearError_frameBuffer (h : Handle) : h.clearError.frameBuffer = h.frameBuffer := rfl

@[simp] theorem Handle.clearError_linkQuality (h : Handle) : h.clearError.linkQuality = h.linkQuality := rfl

@[simp] theorem Handle.clearError_signalStrength (h : Handle) : h.clearError.signalStrength = h.signalStrength := rfl

@[simp] theorem Handle.clearError_txbuf (h : Handle) : h.clearError.txbuf = h.txbuf := rfl

@[simp] theorem Handle.clearError_txlen (h : Handle) : h.clearError.txlen = h.txlen := rfl

@[simp] theorem Handle.clearError_rxn (h : Handle) : h.clearError.rxn = h.rxn := rfl

@[simp] theorem Handle.clearError_inflight (h : Handle) : h.clearError.inflight = h.inflight := rfl

@[simp] theorem Handle.clearError_pendOp (h : Handle) : h.clearError.pendOp = h.pendOp := rfl

@[simp] theorem Handle.clearError_err (h : Handle) : h.clearError.err = .ok := rfl

@[simp] theorem Handle.clearError_errPhase (h : Handle) : h.clearError.errPhase = 0#3 := rfl

@[simp] theorem Handle.clearError_rxCode (h : Handle) : h.clearError.rxCode = h.rxCode := rfl

@[simp] theorem Handle.clearError_rxErrPhase (h : Handle) : h.clearError.rxErrPhase = h.rxErrPhase := rfl

@[simp] theorem Handle.clearError_rxEnableOk (h : Handle) : h.clearError.rxEnableOk = h.rxEnableOk := rfl

/-! ## The failure path and the end of a session -/

@[simp] theorem toEnable_st (s : State) : (toEnable s).h.st = .rxEnable := rfl

@[simp] theorem toEnable_idx (s : State) : (toEnable s).h.idx = s.h.idx := rfl

@[simp] theorem toEnable_inProgress (s : State) : (toEnable s).h.inProgress = s.h.inProgress := rfl

@[simp] theorem toEnable_frameLength (s : State) : (toEnable s).h.frameLength = s.h.frameLength := rfl

@[simp] theorem toEnable_frameBuffer (s : State) : (toEnable s).h.frameBuffer = s.h.frameBuffer := rfl

@[simp] theorem toEnable_linkQuality (s : State) : (toEnable s).h.linkQuality = s.h.linkQuality := rfl

@[simp] theorem toEnable_signalStrength (s : State) : (toEnable s).h.signalStrength = s.h.signalStrength := rfl

@[simp] theorem toEnable_txbuf (s : State) : (toEnable s).h.txbuf = txBuffer (bbWrite s.params s.params.bbEnable).bytes s.draws := rfl

@[simp] theorem toEnable_txlen (s : State) : (toEnable s).h.txlen = BitVec.ofNat 2 (bbWrite s.params s.params.bbEnable).bytes.length := rfl

@[simp] theorem toEnable_rxn (s : State) : (toEnable s).h.rxn = (bbWrite s.params s.params.bbEnable).rxn := rfl

@[simp] theorem toEnable_inflight (s : State) : (toEnable s).h.inflight = true := rfl

@[simp] theorem toEnable_pendOp (s : State) : (toEnable s).h.pendOp = s.h.pendOp := rfl

@[simp] theorem toEnable_err (s : State) : (toEnable s).h.err = s.h.err := rfl

@[simp] theorem toEnable_errPhase (s : State) : (toEnable s).h.errPhase = s.h.errPhase := rfl

@[simp] theorem toEnable_rxCode (s : State) : (toEnable s).h.rxCode = s.h.rxCode := rfl

@[simp] theorem toEnable_rxErrPhase (s : State) : (toEnable s).h.rxErrPhase = s.h.rxErrPhase := rfl

@[simp] theorem toEnable_rxEnableOk (s : State) : (toEnable s).h.rxEnableOk = s.h.rxEnableOk := rfl

@[simp] theorem toEnable_params (s : State) : (toEnable s).params = s.params := rfl

@[simp] theorem toEnable_inputs (s : State) : (toEnable s).inputs = s.inputs := rfl

@[simp] theorem toEnable_responses (s : State) : (toEnable s).responses = s.responses := rfl

@[simp] theorem toEnable_answer (s : State) : (toEnable s).answer = s.answer := rfl

@[simp] theorem toEnable_bus (s : State) : (toEnable s).bus = s.bus ++ [bbWrite s.params s.params.bbEnable] := rfl

@[simp] theorem toEnable_accesses (s : State) : (toEnable s).accesses = s.accesses := rfl

@[simp] theorem toEnable_draws (s : State) : (toEnable s).draws = s.draws + 1 := rfl

@[simp] theorem failSession_st (c : Status) (s : State) : (failSession c s).h.st = .rxEnable := rfl

@[simp] theorem failSession_idx (c : Status) (s : State) : (failSession c s).h.idx = s.h.idx := by simp [failSession]

@[simp] theorem failSession_inProgress (c : Status) (s : State) : (failSession c s).h.inProgress = s.h.inProgress := by simp [failSession]

@[simp] theorem failSession_frameLength (c : Status) (s : State) : (failSession c s).h.frameLength = s.h.frameLength := by simp [failSession]

@[simp] theorem failSession_frameBuffer (c : Status) (s : State) : (failSession c s).h.frameBuffer = s.h.frameBuffer := by simp [failSession]

@[simp] theorem failSession_linkQuality (c : Status) (s : State) : (failSession c s).h.linkQuality = s.h.linkQuality := by simp [failSession]

@[simp] theorem failSession_signalStrength (c : Status) (s : State) : (failSession c s).h.signalStrength = s.h.signalStrength := by simp [failSession]

@[simp] theorem failSession_txbuf (c : Status) (s : State) : (failSession c s).h.txbuf = txBuffer (bbWrite s.params s.params.bbEnable).bytes s.draws := rfl

@[simp] theorem failSession_txlen (c : Status) (s : State) : (failSession c s).h.txlen = BitVec.ofNat 2 (bbWrite s.params s.params.bbEnable).bytes.length := rfl

@[simp] theorem failSession_rxn (c : Status) (s : State) : (failSession c s).h.rxn = (bbWrite s.params s.params.bbEnable).rxn := rfl

@[simp] theorem failSession_inflight (c : Status) (s : State) : (failSession c s).h.inflight = true := rfl

@[simp] theorem failSession_pendOp (c : Status) (s : State) : (failSession c s).h.pendOp = s.h.pendOp := by simp [failSession]

@[simp] theorem failSession_err (c : Status) (s : State) : (failSession c s).h.err = (s.h.recordError c).err := by simp [failSession]

@[simp] theorem failSession_errPhase (c : Status) (s : State) : (failSession c s).h.errPhase = (s.h.recordError c).errPhase := by simp [failSession]

@[simp] theorem failSession_rxCode (c : Status) (s : State) : (failSession c s).h.rxCode = s.h.rxCode := by simp [failSession]

@[simp] theorem failSession_rxErrPhase (c : Status) (s : State) : (failSession c s).h.rxErrPhase = s.h.rxErrPhase := by simp [failSession]

@[simp] theorem failSession_rxEnableOk (c : Status) (s : State) : (failSession c s).h.rxEnableOk = s.h.rxEnableOk := by simp [failSession]

@[simp] theorem failSession_params (c : Status) (s : State) : (failSession c s).params = s.params := rfl

@[simp] theorem failSession_inputs (c : Status) (s : State) : (failSession c s).inputs = s.inputs := rfl

@[simp] theorem failSession_responses (c : Status) (s : State) : (failSession c s).responses = s.responses := rfl

@[simp] theorem failSession_answer (c : Status) (s : State) : (failSession c s).answer = s.answer := rfl

@[simp] theorem failSession_bus (c : Status) (s : State) : (failSession c s).bus = s.bus ++ [bbWrite s.params s.params.bbEnable] := rfl

@[simp] theorem failSession_accesses (c : Status) (s : State) : (failSession c s).accesses = s.accesses := rfl

@[simp] theorem failSession_draws (c : Status) (s : State) : (failSession c s).draws = s.draws + 1 := rfl

@[simp] theorem Handle.completed_st (h : Handle) (ok : Bool) : (h.completed ok).st = .idle := rfl

@[simp] theorem Handle.completed_idx (h : Handle) (ok : Bool) : (h.completed ok).idx = h.idx := by cases ok <;> simp [Handle.completed]

@[simp] theorem Handle.completed_inProgress (h : Handle) (ok : Bool) : (h.completed ok).inProgress = false := rfl

@[simp] theorem Handle.completed_frameLength (h : Handle) (ok : Bool) : (h.completed ok).frameLength = h.frameLength := by cases ok <;> simp [Handle.completed]

@[simp] theorem Handle.completed_frameBuffer (h : Handle) (ok : Bool) : (h.completed ok).frameBuffer = h.frameBuffer := by cases ok <;> simp [Handle.completed]

@[simp] theorem Handle.completed_linkQuality (h : Handle) (ok : Bool) : (h.completed ok).linkQuality = h.linkQuality := by cases ok <;> simp [Handle.completed]

@[simp] theorem Handle.completed_signalStrength (h : Handle) (ok : Bool) : (h.completed ok).signalStrength = h.signalStrength := by cases ok <;> simp [Handle.completed]

@[simp] theorem Handle.completed_txbuf (h : Handle) (ok : Bool) : (h.completed ok).txbuf = h.txbuf := by cases ok <;> simp [Handle.completed]

@[simp] theorem Handle.completed_txlen (h : Handle) (ok : Bool) : (h.completed ok).txlen = h.txlen := by cases ok <;> simp [Handle.completed]

@[simp] theorem Handle.completed_rxn (h : Handle) (ok : Bool) : (h.completed ok).rxn = h.rxn := by cases ok <;> simp [Handle.completed]

@[simp] theorem Handle.completed_inflight (h : Handle) (ok : Bool) : (h.completed ok).inflight = h.inflight := by cases ok <;> simp [Handle.completed]

@[simp] theorem Handle.completed_pendOp (h : Handle) (ok : Bool) : (h.completed ok).pendOp = h.pendOp := by cases ok <;> simp [Handle.completed]

@[simp] theorem Handle.completed_rxCode (h : Handle) (ok : Bool) : (h.completed ok).rxCode = (h.completed ok).err.code := rfl

@[simp] theorem Handle.completed_rxErrPhase (h : Handle) (ok : Bool) : (h.completed ok).rxErrPhase = (h.completed ok).errPhase := rfl

@[simp] theorem Handle.completed_rxEnableOk (h : Handle) (ok : Bool) : (h.completed ok).rxEnableOk = ok := rfl

theorem Handle.completed_err (h : Handle) (ok : Bool) :
    (h.completed ok).err = if ok = false ∧ h.err = .ok then .busError else h.err := by
  cases ok <;> simp [Handle.completed, Handle.recordError_err]

theorem Handle.completed_errPhase (h : Handle) (ok : Bool) :
    (h.completed ok).errPhase = if ok = false ∧ h.err = .ok then h.st.code else h.errPhase := by
  cases ok <;> simp [Handle.completed, Handle.recordError_errPhase]

@[simp] theorem completeSession_h (a : Answer) (s : State) : (completeSession a s).h = s.h.completed a.ok := rfl

@[simp] theorem completeSession_params (a : Answer) (s : State) : (completeSession a s).params = s.params := rfl

@[simp] theorem completeSession_inputs (a : Answer) (s : State) : (completeSession a s).inputs = s.inputs := rfl

@[simp] theorem completeSession_responses (a : Answer) (s : State) : (completeSession a s).responses = s.responses ++ [⟨s.h.pendOp, (s.h.completed a.ok).err, s.h.frameLength⟩] := by simp [completeSession, respondOwed, respond]

@[simp] theorem completeSession_answer (a : Answer) (s : State) : (completeSession a s).answer = s.answer := rfl

@[simp] theorem completeSession_bus (a : Answer) (s : State) : (completeSession a s).bus = s.bus := rfl

@[simp] theorem completeSession_accesses (a : Answer) (s : State) : (completeSession a s).accesses = s.accesses := rfl

@[simp] theorem completeSession_draws (a : Answer) (s : State) : (completeSession a s).draws = s.draws := rfl

/-! ## The drain -/

@[simp] theorem Handle.storeByte_st (h : Handle) (rx : Byte) : (h.storeByte rx).st = h.st := rfl

@[simp] theorem Handle.storeByte_idx (h : Handle) (rx : Byte) : (h.storeByte rx).idx = h.idx + 1#8 := rfl

@[simp] theorem Handle.storeByte_inProgress (h : Handle) (rx : Byte) : (h.storeByte rx).inProgress = h.inProgress := rfl

@[simp] theorem Handle.storeByte_frameLength (h : Handle) (rx : Byte) : (h.storeByte rx).frameLength = h.frameLength := rfl

@[simp] theorem Handle.storeByte_frameBuffer (h : Handle) (rx : Byte) : (h.storeByte rx).frameBuffer = h.frameBuffer.setIfInBounds h.idx.toNat rx := rfl

@[simp] theorem Handle.storeByte_linkQuality (h : Handle) (rx : Byte) : (h.storeByte rx).linkQuality = h.linkQuality := rfl

@[simp] theorem Handle.storeByte_signalStrength (h : Handle) (rx : Byte) : (h.storeByte rx).signalStrength = h.signalStrength := rfl

@[simp] theorem Handle.storeByte_txbuf (h : Handle) (rx : Byte) : (h.storeByte rx).txbuf = h.txbuf := rfl

@[simp] theorem Handle.storeByte_txlen (h : Handle) (rx : Byte) : (h.storeByte rx).txlen = h.txlen := rfl

@[simp] theorem Handle.storeByte_rxn (h : Handle) (rx : Byte) : (h.storeByte rx).rxn = h.rxn := rfl

@[simp] theorem Handle.storeByte_inflight (h : Handle) (rx : Byte) : (h.storeByte rx).inflight = h.inflight := rfl

@[simp] theorem Handle.storeByte_pendOp (h : Handle) (rx : Byte) : (h.storeByte rx).pendOp = h.pendOp := rfl

@[simp] theorem Handle.storeByte_err (h : Handle) (rx : Byte) : (h.storeByte rx).err = h.err := rfl

@[simp] theorem Handle.storeByte_errPhase (h : Handle) (rx : Byte) : (h.storeByte rx).errPhase = h.errPhase := rfl

@[simp] theorem Handle.storeByte_rxCode (h : Handle) (rx : Byte) : (h.storeByte rx).rxCode = h.rxCode := rfl

@[simp] theorem Handle.storeByte_rxErrPhase (h : Handle) (rx : Byte) : (h.storeByte rx).rxErrPhase = h.rxErrPhase := rfl

@[simp] theorem Handle.storeByte_rxEnableOk (h : Handle) (rx : Byte) : (h.storeByte rx).rxEnableOk = h.rxEnableOk := rfl

/-! ## The ports once an answer is taken -/

@[simp] theorem State.answered_h (s : State) (i : Instr) (a : Answer) : (s.answered i a).h = s.h := rfl

@[simp] theorem State.answered_params (s : State) (i : Instr) (a : Answer) : (s.answered i a).params = s.params := rfl

@[simp] theorem State.answered_inputs (s : State) (i : Instr) (a : Answer) : (s.answered i a).inputs = s.inputs := rfl

@[simp] theorem State.answered_responses (s : State) (i : Instr) (a : Answer) : (s.answered i a).responses = s.responses := rfl

@[simp] theorem State.answered_answer (s : State) (i : Instr) (a : Answer) : (s.answered i a).answer = none := rfl

@[simp] theorem State.answered_bus (s : State) (i : Instr) (a : Answer) : (s.answered i a).bus = s.bus := rfl

@[simp] theorem State.answered_accesses (s : State) (i : Instr) (a : Answer) : (s.answered i a).accesses = s.accesses ++ accessesOf i a := rfl

@[simp] theorem State.answered_draws (s : State) (i : Instr) (a : Answer) : (s.answered i a).draws = s.draws := rfl

/-! ## Codes -/

/-- The state codes of R22 name the states. -/
theorem St.code_injective {a b : St} (h : a.code = b.code) : a = b := by
  cases a <;> cases b <;> simp_all [St.code]

/-- Only IDLE has code 0, so a recorded phase is 0 only when there is none (R31). -/
@[simp] theorem St.code_eq_zero (a : St) : a.code = 0#3 ↔ a = .idle := by
  cases a <;> simp [St.code]

/-- The status codes of R181 name the statuses. -/
theorem Status.code_injective {a b : Status} (h : a.code = b.code) : a = b := by
  cases a <;> cases b <;> simp_all [Status.code]

end Sys2Proof.Machine
end

