-- ==== Sys2Proof/Laws/Ops.lean ====
section
/-! SUPPORT. What the shared operations do: the transaction in flight after an issue, and everything the response step of
a bus frame can answer. -/

namespace Sys2Proof.Machine

/-! ## The transaction in flight -/

@[simp] theorem encodeShortWrite_length (a : Addr16) (v : Byte) : (encodeShortWrite a v).length = 2 := rfl
@[simp] theorem encodeLongWrite_length (a : Addr16) (v : Byte) : (encodeLongWrite a v).length = 3 := rfl
@[simp] theorem encodeLongReadHeader_length (a : Addr16) : (encodeLongReadHeader a).length = 2 := rfl

/-- A chip write fits the scratch buffer (R72). -/
theorem memWrite_length_le (sc : Scheme) (a : Addr16) (v : Byte) : (memWrite sc a v).bytes.length ≤ 3 := by
  cases sc <;> simp [memWrite]

/-- A chip read fits the scratch buffer (R72). -/
theorem memRead_length_le (sc : Scheme) (a : Addr16) : (memRead sc a).bytes.length ≤ 3 := by
  cases sc <;> simp [memRead]

theorem bbWrite_length_le (p : Params) (v : Byte) : (bbWrite p v).bytes.length ≤ 3 := memWrite_length_le _ _ _

theorem fifoRead_length_le (x : Addr16) : (fifoRead x).bytes.length ≤ 3 := memRead_length_le _ _

/-- After an issue the current transaction transmits exactly the bytes issued (R195). -/
theorem txBytes_issue (x : Transaction) (s : State) (hx : x.bytes.length ≤ 3) :
    (issue x s).h.txBytes = x.bytes := by
  obtain ⟨bytes, n⟩ := x
  match bytes, hx with
  | [], _ | [_], _ | [_, _], _ | [_, _, _], _ => simp [Handle.txBytes, txBuffer, txByte]

/-- After an issue the transaction fields describe the transaction issued (R29, R195). -/
theorem transaction_issue (x : Transaction) (s : State) (hx : x.bytes.length ≤ 3) :
    (issue x s).h.transaction = x := by
  simp [Handle.transaction, txBytes_issue x s hx]

/-- What an issue leaves, in the words of the statements (R195). -/
theorem issued_issue (s : State) (h : Handle) (x : Transaction) (hx : x.bytes.length ≤ 3) :
    s.issued h x (issue x { s with h := h }) := by
  refine ⟨rfl, ?_, rfl, ?_, rfl, rfl, rfl⟩
  · simp only [issue_txlen, BitVec.toNat_ofNat]; omega
  · intro i hi b hb
    obtain rfl | rfl | rfl : i = 0 ∨ i = 1 ∨ i = 2 := by omega
    all_goals simp [txBuffer, txByte, hb]

/-- The same for the re-enable write (R149). -/
theorem transaction_toEnable (s : State) : (toEnable s).h.transaction = bbWrite s.params s.params.bbEnable :=
  transaction_issue _ _ (bbWrite_length_le _ _)

theorem transaction_failSession (c : Status) (s : State) :
    (failSession c s).h.transaction = bbWrite s.params s.params.bbEnable :=
  transaction_toEnable _

/-! ## Commands -/

/-- A command that finds the block idle is accepted (R120). -/
theorem acceptCommand_idle (op : Opcode) (t s : State) (h : s.h.st = .idle) : acceptCommand op t s = t :=
  if_pos h

/-- A command that does not is answered BUSY (R120). -/
theorem acceptCommand_busy (op : Opcode) (t s : State) (h : s.h.st ≠ .idle) :
    acceptCommand op t s = respond op .busy 0x00#8 s :=
  if_neg h

/-! ## The response step -/

/-- A decoded bus frame is one of the four frame rows. -/
theorem isFrame_of_decodeFrame {bs : List Byte} {i : Instr} (h : decodeFrame bs = .ok i) : i.isFrame = true := by
  unfold decodeFrame decodeLongTail decodeWriteTail decodeReadTail at h
  repeat' split at h
  all_goals first
    | (simp at h; done)
    | (injection h with h; subst h; rfl)

/-- A bus frame without an answer waits (R142, R157). -/
theorem exec_frame_waits {i : Instr} {s : State} (hf : i.isFrame = true) (ha : s.answer = none) :
    exec i s = .next s := by
  cases i <;> simp_all [Instr.isFrame, exec, execFrameShortWrite, execFrameShortRead, execFrameLongWrite,
    execFrameLongRead, takeAnswer]

/-- A bus frame with an answer and no transaction in flight stops. -/
theorem exec_frame_stray {i : Instr} {s : State} {a : Answer} (hf : i.isFrame = true) (ha : s.answer = some a)
    (hi : s.h.inflight = false) : exec i s = .fault .strayAnswer := by
  cases i <;> simp_all [Instr.isFrame, exec, execFrameShortWrite, execFrameShortRead, execFrameLongWrite,
    execFrameLongRead, takeAnswer]

/-- A bus frame with an answer ends its transaction and runs the response rule (R196). -/
theorem exec_frame_answer {i : Instr} {s : State} {a : Answer} (hf : i.isFrame = true) (ha : s.answer = some a)
    (hi : s.h.inflight = true) :
    ∃ sp ad k, exec i s = responseRule a (finishTransaction sp ad k a s) := by
  cases i <;> simp [Instr.isFrame] at hf
  case frameShortWrite x v => exact ⟨.short, x.setWidth 10, .write v, by simp [exec, execFrameShortWrite, takeAnswer, ha, hi]⟩
  case frameShortRead x => exact ⟨.short, x.setWidth 10, .read, by simp [exec, execFrameShortRead, takeAnswer, ha, hi]⟩
  case frameLongWrite x v => exact ⟨.long, x, .write v, by simp [exec, execFrameLongWrite, takeAnswer, ha, hi]⟩
  case frameLongRead x => exact ⟨.long, x, .read, by simp [exec, execFrameLongRead, takeAnswer, ha, hi]⟩

/-- The same in the words of the statements: the ports take the answer, and the response rule runs (R196). -/
theorem exec_frame_eq {i : Instr} {s : State} {a : Answer} (hf : i.isFrame = true) (ha : s.answer = some a)
    (hi : s.h.inflight = true) :
    exec i s = responseRule a { s.answered i a with h := { s.h with inflight := false } } := by
  obtain ⟨ok, rx⟩ := a
  cases i <;> simp [Instr.isFrame] at hf
  all_goals cases ok <;> simp [exec, execFrameShortWrite, execFrameShortRead, execFrameLongWrite, execFrameLongRead,
    takeAnswer, ha, hi, finishTransaction, State.answered, accessesOf, accessOutcome, decodeRead]

/-! The response rule by state (R196). -/

theorem responseRule_regBusy {a : Answer} {s : State} (h : s.h.st = .regBusy) : responseRule a s = .next (registerAnswer a s) := by
  unfold responseRule; rw [h]

theorem responseRule_rxDisable {a : Answer} {s : State} (h : s.h.st = .rxDisable) : responseRule a s = .next (rxDisableAnswer a s) := by
  unfold responseRule; rw [h]

theorem responseRule_rxLen {a : Answer} {s : State} (h : s.h.st = .rxLen) : responseRule a s = .next (rxLenAnswer a s) := by
  unfold responseRule; rw [h]

theorem responseRule_rxData {a : Answer} {s : State} (h : s.h.st = .rxData) : responseRule a s = rxDataAnswer a s := by
  unfold responseRule; rw [h]

theorem responseRule_rxLq {a : Answer} {s : State} (h : s.h.st = .rxLq) : responseRule a s = .next (rxLqAnswer a s) := by
  unfold responseRule; rw [h]

theorem responseRule_rxSs {a : Answer} {s : State} (h : s.h.st = .rxSs) : responseRule a s = .next (rxSsAnswer a s) := by
  unfold responseRule; rw [h]

theorem responseRule_rxEnable {a : Answer} {s : State} (h : s.h.st = .rxEnable) : responseRule a s = .next (completeSession a s) := by
  unfold responseRule; rw [h]; rfl

/-- Everything the response rule can do when it answers a next state (R121, R143 to R150). -/
inductive Responded (a : Answer) (s : State) : State → Prop
  | register (h : s.h.st = .regBusy) : Responded a s (registerAnswer a s)
  | disable (h : s.h.st = .rxDisable) : Responded a s (rxDisableAnswer a s)
  | len (h : s.h.st = .rxLen) : Responded a s (rxLenAnswer a s)
  | data (h : s.h.st = .rxData) (ok : a.ok = true) (b : s.h.idx.toNat < 127) :
      Responded a s (readNext { s with h := s.h.storeByte (decodeRead a.rx) })
  | dataFailed (h : s.h.st = .rxData) (ok : a.ok = false) : Responded a s (failSession .busError s)
  | lq (h : s.h.st = .rxLq) : Responded a s (rxLqAnswer a s)
  | ss (h : s.h.st = .rxSs) : Responded a s (rxSsAnswer a s)
  | enable (h : s.h.st = .rxEnable) : Responded a s (completeSession a s)

/-- The inversion lemma of the response step. -/
theorem responded_of_responseRule {a : Answer} {s t : State} (h : responseRule a s = .next t) : Responded a s t := by
  unfold responseRule at h
  split at h <;> rename_i hst
  · simp at h
  · injection h with h; exact h ▸ .register hst
  · injection h with h; exact h ▸ .disable hst
  · injection h with h; exact h ▸ .len hst
  · unfold rxDataAnswer at h
    split at h
    · split at h
      · injection h with h; exact h ▸ .data hst ‹_› ‹_›
      · simp at h
    · injection h with h; exact h ▸ .dataFailed hst (by rename_i hok; simpa using hok)
  · injection h with h; exact h ▸ .lq hst
  · injection h with h; exact h ▸ .ss hst
  · injection h with h; exact h ▸ .enable hst

/-- When the response rule answers a next state: in every state but IDLE, and with room for a data byte. -/
theorem responseRule_next {a : Answer} {s : State} (hst : s.h.st ≠ .idle)
    (hb : s.h.st = .rxData → s.h.idx.toNat < 127) : ∃ t, responseRule a s = .next t := by
  unfold responseRule
  split
  · contradiction
  all_goals first
    | exact ⟨_, rfl⟩
    | (unfold rxDataAnswer; split
       · rw [if_pos (by exact hb ‹_›)]; exact ⟨_, rfl⟩
       · exact ⟨_, rfl⟩)

end Sys2Proof.Machine
end

