-- ==== Sys2Proof/Laws/PerInstr.lean ====
section
/-! SUPPORT. The family TableRow: the encoding of every well-formed instruction has the size of its row of
spec/opcode_table.json and matches the row's mask and pattern. One lemma for each constructor. -/

namespace Sys2Proof.Laws.TableRow

/-- A row of the opcode table: its size in bits, and the mask and pattern of its fixed bits. -/
structure Row where
  bits : Nat
  mask : BitVec 32
  pattern : BitVec 32
  deriving DecidableEq, Repr

/-- The row of an instruction, transcribed from the table. -/
def row : Instr → Row
  | .ws _ _ => ⟨32, 0xF0000000#32, 0x10000000#32⟩
  | .rs _ => ⟨32, 0xF0000000#32, 0x20000000#32⟩
  | .wl _ _ => ⟨32, 0xF0000000#32, 0x30000000#32⟩
  | .rl _ => ⟨32, 0xF0000000#32, 0x40000000#32⟩
  | .rx => ⟨32, 0xF0000000#32, 0x50000000#32⟩
  | .reservedOp0 => ⟨32, 0xF0000000#32, 0x00000000#32⟩
  | .reservedOp6to7 _ => ⟨32, 0xE0000000#32, 0x60000000#32⟩
  | .reservedOp8toF _ => ⟨32, 0x80000000#32, 0x80000000#32⟩
  | .frameShortWrite _ _ => ⟨16, 0x8100#32, 0x0100#32⟩
  | .frameShortRead _ => ⟨8, 0x81#32, 0x00#32⟩
  | .frameLongWrite _ _ => ⟨24, 0x801F00#32, 0x801000#32⟩
  | .frameLongRead _ => ⟨16, 0x801F#32, 0x8000#32⟩

/-- The size of what a port carries. -/
def sizeOf : Packet → Nat
  | .word _ => 32
  | .frame bytes => 8 * bytes.length

/-- What a port carries, as the table's number: the first byte of a frame is the most significant. -/
def number : Packet → BitVec 32
  | .word w => w
  | .frame bytes => bytes.foldl (fun n b => n <<< 8 ||| b.setWidth 32) 0#32

/-- The encoding of `i` is one of its row's. -/
def Statement (i : Instr) : Prop :=
  i.wellFormed = true → sizeOf (encode i) = (row i).bits ∧ number (encode i) &&& (row i).mask = (row i).pattern

/-- The fixed bits of a command word are those of its opcode (R78). -/
theorem commandWord_mask (m p op : Opcode) (rsv : BitVec 4) (a : Addr16) (v : Byte) (h : op &&& m = p) :
    commandWord op rsv a v &&& (m ++ 0#28) = p ++ 0#28 := by
  subst h
  apply BitVec.eq_of_getLsbD_eq
  intro i hi
  simp only [commandWord, BitVec.getLsbD_and, BitVec.getLsbD_append]
  by_cases h : i < 28
  · simp [h]
  · have h1 : ¬ i < 8 := by omega
    have h2 : ¬ i - 8 < 16 := by omega
    have h3 : ¬ i - 8 - 16 < 4 := by omega
    simp [h, h1, h2, h3, show i - 8 - 16 - 4 = i - 28 by omega]

/-- Bits [3:0] of long header byte 1 are 0 (R74). -/
theorem longHeader1_low (a : LongAddr) (w : BitVec 1) (k : Nat) (h : k < 4) : (longHeader1 a w)[k] = false := by
  rw [← BitVec.getLsbD_eq_getElem]; unfold longHeader1
  simp only [BitVec.getLsbD_append, h, if_true]; simp

theorem ws (a : Addr16) (v : Byte) : Statement (.ws a v) :=
  fun _ => ⟨rfl, commandWord_mask 0xF#4 0x1#4 _ _ _ _ rfl⟩

theorem rs (a : Addr16) : Statement (.rs a) :=
  fun _ => ⟨rfl, commandWord_mask 0xF#4 0x2#4 _ _ _ _ rfl⟩

theorem wl (a : Addr16) (v : Byte) : Statement (.wl a v) :=
  fun _ => ⟨rfl, commandWord_mask 0xF#4 0x3#4 _ _ _ _ rfl⟩

theorem rl (a : Addr16) : Statement (.rl a) :=
  fun _ => ⟨rfl, commandWord_mask 0xF#4 0x4#4 _ _ _ _ rfl⟩

theorem rx : Statement .rx :=
  fun _ => ⟨rfl, commandWord_mask 0xF#4 0x5#4 _ _ _ _ rfl⟩

theorem reservedOp0 : Statement .reservedOp0 :=
  fun _ => ⟨rfl, commandWord_mask 0xF#4 0x0#4 _ _ _ _ rfl⟩

theorem reservedOp6to7 (op : Opcode) : Statement (.reservedOp6to7 op) := by
  intro h
  refine ⟨rfl, commandWord_mask 0xE#4 0x6#4 _ _ _ _ ?_⟩
  simp [Instr.wellFormed] at h
  rcases h with rfl | rfl <;> rfl

theorem reservedOp8toF (op : Opcode) : Statement (.reservedOp8toF op) := by
  intro h
  refine ⟨rfl, commandWord_mask 0x8#4 0x8#4 _ _ _ _ ?_⟩
  revert op; decide

theorem frameShortWrite (a : ShortAddr) (v : Byte) : Statement (.frameShortWrite a v) := by
  intro _
  refine ⟨rfl, ?_⟩
  apply BitVec.eq_of_getLsbD_eq
  intro i hi
  interval_cases i <;> simp [number, encode, row, shortHeader_scheme, shortHeader_write]

theorem frameShortRead (a : ShortAddr) : Statement (.frameShortRead a) := by
  intro _
  refine ⟨rfl, ?_⟩
  apply BitVec.eq_of_getLsbD_eq
  intro i hi
  interval_cases i <;> simp [number, encode, row, shortHeader_scheme, shortHeader_write]

theorem frameLongWrite (a : LongAddr) (v : Byte) : Statement (.frameLongWrite a v) := by
  intro _
  refine ⟨rfl, ?_⟩
  apply BitVec.eq_of_getLsbD_eq
  intro i hi
  interval_cases i <;> simp [number, encode, row, longHeader0_scheme, longHeader1_write, longHeader1_low]

theorem frameLongRead (a : LongAddr) : Statement (.frameLongRead a) := by
  intro _
  refine ⟨rfl, ?_⟩
  apply BitVec.eq_of_getLsbD_eq
  intro i hi
  interval_cases i <;> simp [number, encode, row, longHeader0_scheme, longHeader1_write, longHeader1_low]

end Sys2Proof.Laws.TableRow
end

