-- ==== Sys2Proof/Laws/Step.lean ====
section
/-! SUPPORT. Everything one step can do: the equations of `step` for each event, and the inversion lemma from which every
claim about all steps is derived. -/

namespace Sys2Proof.Machine

/-! ## Equations -/

theorem step_of_no_input {s : State} (h : s.inputs = []) : step s = .next s := by
  simp [step, fetch, h]

theorem step_of_command {s : State} {w : CommandWord} {rest : List Input} (h : s.inputs = .command w :: rest) :
    step s = exec (decodeCommand w) { s with inputs := rest } := by
  simp [step, fetch, h, fetchCommand]

theorem step_of_answer {s : State} {a : Answer} {rest : List Input} {i : Instr} (h : s.inputs = .answer a :: rest)
    (hi : s.h.inflight = true) (hd : decodeFrame s.h.txBytes = .ok i) :
    step s = exec i { s with inputs := rest, answer := some a } := by
  simp [step, fetch, h, fetchAnswer, hi, hd]

theorem step_of_stray {s : State} {a : Answer} {rest : List Input} (h : s.inputs = .answer a :: rest)
    (hi : s.h.inflight = false) : step s = .fault .strayAnswer := by
  simp [step, fetch, h, fetchAnswer, hi]

theorem step_of_no_frame {s : State} {a : Answer} {rest : List Input} {e : FrameError}
    (h : s.inputs = .answer a :: rest) (hi : s.h.inflight = true) (hd : decodeFrame s.h.txBytes = .error e) :
    step s = .refused .noBusFrame := by
  simp [step, fetch, h, fetchAnswer, hi, hd]

theorem step_of_take {s : State} {rest : List Input} (h : s.inputs = .takeResponse :: rest) :
    step s = .next (clientTakes { s with inputs := rest }) := by
  simp [step, fetch, h]

theorem step_of_reset {s : State} {rest : List Input} (h : s.inputs = .reset :: rest) :
    step s = .next (resetBlock { s with inputs := rest }) := by
  simp [step, fetch, h]

/-! ## Commands -/

theorem registerTransaction_length_le (w : CommandWord) : (registerTransaction w).bytes.length ≤ 3 := by
  unfold registerTransaction
  repeat' split
  all_goals first | exact memWrite_length_le _ _ _ | exact memRead_length_le _ _

/-- Everything a command word can do (R120): the next state, by its OP and whether the block is idle. -/
inductive Commanded (w : CommandWord) (s : State) : State → Prop
  | illegal (h : ¬ legalOp (wordOp w)) : Commanded w s (rejectIllegal (wordOp w) s)
  | busy (h : legalOp (wordOp w)) (hst : s.h.st ≠ .idle) : Commanded w s (respond (wordOp w) .busy 0x00#8 s)
  | register (h : legalOp (wordOp w)) (h5 : wordOp w ≠ 0x5#4) (hst : s.h.st = .idle) :
      Commanded w s (startRegister (wordOp w) (registerTransaction w) s)
  | session (h5 : wordOp w = 0x5#4) (hst : s.h.st = .idle) : Commanded w s (startSession s)

/-- A command word always answers a next state, and one of those (R120). -/
theorem exec_decodeCommand (w : CommandWord) (s : State) :
    ∃ t, exec (decodeCommand w) s = .next t ∧ Commanded w s t := by
  have legal : ∀ (t u : State) (op : Opcode), wordOp w = op → legalOp op →
      (s.h.st = .idle → Commanded w s t) → u = acceptCommand op t s → Commanded w s u := by
    intro t u op hop hl ht hu
    by_cases hst : s.h.st = .idle
    · rw [hu, acceptCommand_idle _ _ _ hst]; exact ht hst
    · rw [hu, acceptCommand_busy _ _ _ hst, ← hop]; exact .busy (hop ▸ hl) hst
  have reg : ∀ (op : Opcode) (x : Transaction), wordOp w = op → legalOp op → op ≠ 0x5#4 →
      registerTransaction w = x → s.h.st = .idle → Commanded w s (startRegister op x s) := by
    rintro op x rfl hl h5 rfl hst; exact .register hl h5 hst
  unfold decodeCommand
  split
  · exact ⟨_, rfl, legal _ _ 0x1#4 ‹_› (by decide)
      (reg _ _ ‹_› (by decide) (by decide) (by simp [registerTransaction, *])) rfl⟩
  split
  · exact ⟨_, rfl, legal _ _ 0x2#4 ‹_› (by decide)
      (reg _ _ ‹_› (by decide) (by decide) (by simp [registerTransaction, *])) rfl⟩
  split
  · exact ⟨_, rfl, legal _ _ 0x3#4 ‹_› (by decide)
      (reg _ _ ‹_› (by decide) (by decide) (by simp [registerTransaction, *])) rfl⟩
  split
  · exact ⟨_, rfl, legal _ _ 0x4#4 ‹_› (by decide)
      (reg _ _ ‹_› (by decide) (by decide) (by simp [registerTransaction, *])) rfl⟩
  split
  · exact ⟨_, rfl, legal _ _ 0x5#4 ‹_› (by decide) (.session ‹_›) rfl⟩
  have ill : ¬ legalOp (wordOp w) := by simp [*]
  split
  · exact ⟨_, rfl, by rename_i h0; exact h0 ▸ .illegal ill⟩
  split
  · exact ⟨_, rfl, .illegal ill⟩
  · exact ⟨_, rfl, .illegal ill⟩

/-! ## One step -/

/-- Everything one step can do when it answers a next state. -/
inductive Stepped (s : State) : State → Prop
  | waits (h : s.inputs = []) : Stepped s s
  | command {w : CommandWord} {rest : List Input} {t : State} (h : s.inputs = .command w :: rest)
      (ht : Commanded w { s with inputs := rest } t) : Stepped s t
  | answer {a : Answer} {rest : List Input} {i : Instr} {sp : Scheme} {ad : LongAddr} {k : AccessKind} {t : State}
      (h : s.inputs = .answer a :: rest) (hi : s.h.inflight = true) (hd : decodeFrame s.h.txBytes = .ok i)
      (ht : Responded a (finishTransaction sp ad k a { s with inputs := rest, answer := some a }) t) : Stepped s t
  | takes {rest : List Input} (h : s.inputs = .takeResponse :: rest) : Stepped s (clientTakes { s with inputs := rest })
  | reset {rest : List Input} (h : s.inputs = .reset :: rest) : Stepped s (resetBlock { s with inputs := rest })

/-- The inversion lemma of the step. -/
theorem stepped_of_step {s t : State} (h : step s = .next t) : Stepped s t := by
  match hin : s.inputs with
  | [] => rw [step_of_no_input hin] at h; injection h with h; exact h ▸ .waits hin
  | .command w :: rest =>
    rw [step_of_command hin] at h
    obtain ⟨u, hu, hc⟩ := exec_decodeCommand w { s with inputs := rest }
    rw [hu] at h; injection h with h; exact .command hin (h ▸ hc)
  | .answer a :: rest =>
    cases hi : s.h.inflight with
    | false => rw [step_of_stray hin hi] at h; simp at h
    | true =>
      match hd : decodeFrame s.h.txBytes with
      | .error e => rw [step_of_no_frame hin hi hd] at h; simp at h
      | .ok i =>
        rw [step_of_answer hin hi hd] at h
        obtain ⟨sp, ad, k, he⟩ := exec_frame_answer (s := { s with inputs := rest, answer := some a })
          (isFrame_of_decodeFrame hd) rfl hi
        rw [he] at h
        exact .answer hin hi hd (responded_of_responseRule h)
  | .takeResponse :: rest => rw [step_of_take hin] at h; injection h with h; exact h ▸ .takes hin
  | .reset :: rest => rw [step_of_reset hin] at h; injection h with h; exact h ▸ .reset hin

/-! ## Several steps -/

@[simp] theorem run_zero (s : State) : run 0 s = .next s := rfl

/-- A run starts with its first step. -/
theorem run_succ {k : Nat} {s t : State} (h : step s = .next t) : run (k + 1) s = run k t := by
  have h' : Sys2Proof.core.step s = .next t := h
  simp only [run, Host.Core.run, h']
  rfl

end Sys2Proof.Machine
end

