-- ==== Sys2Proof/Tests/Slice0.lean ====
section
/-! SUPPORT. The model's own tests: the checks of WellFormed, words and frames written out from the encodings, single
steps, and a witness for the hypotheses of each statement. Expected values come from spec/95_test_vectors.md (its vector
is named) or from the bit tables of spec/30_encoding.md, worked out by hand. -/

open Sys2Proof Sys2Proof.Machine

namespace Sys2Proof.Tests

/-! ## WellFormed: each check refuses an ill-formed term -/

theorem test_wellFormed_reserved6to7 :
    (Instr.reservedOp6to7 0x1#4).wellFormed = false ∧ (Instr.reservedOp6to7 0x8#4).wellFormed = false ∧
    (Instr.reservedOp6to7 0x6#4).wellFormed = true ∧ (Instr.reservedOp6to7 0x7#4).wellFormed = true := by decide

theorem test_wellFormed_reserved8toF :
    (Instr.reservedOp8toF 0x5#4).wellFormed = false ∧ (Instr.reservedOp8toF 0x7#4).wellFormed = false ∧
    (Instr.reservedOp8toF 0x8#4).wellFormed = true ∧ (Instr.reservedOp8toF 0xF#4).wellFormed = true := by decide

theorem test_wellFormed_assembler :
    (AsmLine.ws 0x10000 0).wellFormed = false ∧ (AsmLine.ws 0 0x100).wellFormed = false ∧
    (AsmLine.wl 0x10000 0).wellFormed = false ∧ (AsmLine.wl 0 0x100).wellFormed = false ∧
    (AsmLine.rs 0x10000).wellFormed = false ∧ (AsmLine.rl 0x10000).wellFormed = false ∧
    (AsmLine.ws 0xFFFF 0xFF).wellFormed = true := by decide

/-! ## Decoding: a word for each row, written bit by bit from its encoding -/

/-- W1: OP 0001, RSV 0000, ADDR16 0x0015, VALUE 0xA5. -/
theorem test_decode_ws : decodeCommand 0b0001_0000_0000000000010101_10100101#32 = .ws 0x15#16 0xA5#8 := by decide

/-- W2, W3: RSV is ignored, all 16 address bits are kept. -/
theorem test_decode_ws_fields :
    decodeCommand 0x1F0015A5#32 = .ws 0x15#16 0xA5#8 ∧ decodeCommand 0x10FFFFA5#32 = .ws 0xFFFF#16 0xA5#8 := by decide

/-- W4: VALUE is ignored. -/
theorem test_decode_rs : decodeCommand 0b0010_0000_0000000000010101_11101110#32 = .rs 0x15#16 := by decide

/-- W5. -/
theorem test_decode_wl : decodeCommand 0b0011_0000_0000001010101010_00000111#32 = .wl 0x2AA#16 0x07#8 := by decide

/-- W6. -/
theorem test_decode_rl : decodeCommand 0b0100_0000_0000001010101010_00000000#32 = .rl 0x2AA#16 := by decide

/-- W7, W8. -/
theorem test_decode_rx : decodeCommand 0x50000000#32 = .rx ∧ decodeCommand 0x5FFFFFFF#32 = .rx := by decide

/-- W9. -/
theorem test_decode_reserved0 : decodeCommand 0x00000000#32 = .reservedOp0 := by decide

/-- W10, and the word of REG9. -/
theorem test_decode_reserved6to7 :
    decodeCommand 0x60001234#32 = .reservedOp6to7 0x6#4 ∧ decodeCommand 0x70000000#32 = .reservedOp6to7 0x7#4 := by decide

/-- W11, W12. -/
theorem test_decode_reserved8toF :
    decodeCommand 0x90001234#32 = .reservedOp8toF 0x9#4 ∧ decodeCommand 0xFFFFFFFF#32 = .reservedOp8toF 0xF#4 := by decide

/-- CS6, CS3: `0 A[5:0] 1`, then the value. -/
theorem test_decode_shortWrite :
    decodeFrame [0b0_111001_1#8, 0x04#8] = .ok (.frameShortWrite 0x39#6 0x04#8) ∧
    decodeFrame [0x2B#8, 0xA5#8] = .ok (.frameShortWrite 0x15#6 0xA5#8) := by decide

/-- CR6, CR7: `0 A[5:0] 0`. -/
theorem test_decode_shortRead :
    decodeFrame [0b0_111001_0#8] = .ok (.frameShortRead 0x39#6) ∧
    decodeFrame [0x7E#8] = .ok (.frameShortRead 0x3F#6) := by decide

/-- CLW6, CLW4: `1 A[9:3]`, `A[2:0] 1 0000`, then the value. -/
theorem test_decode_longWrite :
    decodeFrame [0b1_1000000#8, 0b000_1_0000#8, 0x03#8] = .ok (.frameLongWrite 0x200#10 0x03#8) ∧
    decodeFrame [0x95#8, 0x50#8, 0xFF#8] = .ok (.frameLongWrite 0x0AA#10 0xFF#8) := by decide

/-- CLR8, CLR5: `1 A[9:3]`, `A[2:0] 0 0000`. -/
theorem test_decode_longRead :
    decodeFrame [0b1_1100000#8, 0b001_0_0000#8] = .ok (.frameLongRead 0x301#10) ∧
    decodeFrame [0xAA#8, 0xA0#8] = .ok (.frameLongRead 0x155#10) := by decide

/-- R72, R75, R76: bytes that are no bus frame, each refused by name. -/
theorem test_decode_refused :
    decodeFrame [] = .error .noHeader ∧ decodeFrame [0x80#8] = .error .truncatedHeader ∧
    decodeFrame [0xE0#8, 0x21#8] = .error .reservedBits ∧ decodeFrame [0xC0#8, 0x18#8, 0x00#8] = .error .reservedBits ∧
    decodeFrame [0x73#8] = .error .missingValue ∧ decodeFrame [0xC0#8, 0x10#8] = .error .missingValue ∧
    decodeFrame [0x72#8, 0x00#8] = .error .extraBytes ∧ decodeFrame [0x73#8, 0x04#8, 0x00#8] = .error .extraBytes ∧
    decodeFrame [0xE0#8, 0x20#8, 0x00#8] = .error .extraBytes := by decide

/-- The opcode table's numbering of both kinds of row. -/
theorem test_decodeTableWord :
    decodeTableWord 32 0x100015A5 = some (.ws 0x15#16 0xA5#8) ∧
    decodeTableWord 16 0x7304 = some (.frameShortWrite 0x39#6 0x04#8) ∧
    decodeTableWord 8 0x72 = some (.frameShortRead 0x39#6) ∧
    decodeTableWord 24 0xC01003 = some (.frameLongWrite 0x200#10 0x03#8) ∧
    decodeTableWord 16 0xE020 = some (.frameLongRead 0x301#10) ∧ decodeTableWord 16 0xE021 = none := by decide

/-- W1, W4, W5, W6, W7 in their assembler forms. -/
theorem test_assemble :
    assemble (.ws 0x15 0xA5) = some 0x100015A5#32 ∧ assemble (.rs 0x15) = some 0x20001500#32 ∧
    assemble (.wl 0x2AA 0x07) = some 0x3002AA07#32 ∧ assemble (.rl 0x2AA) = some 0x4002AA00#32 ∧
    assemble .rx = some 0x50000000#32 ∧ assemble (.ws 0x10000 0) = none ∧ assemble (.wl 0 256) = none := by decide

/-- The texts of W1, RS 0x15 in decimal, and RX; a value past 0xFF, a missing operand and a bad digit have no word. -/
theorem test_assembleText :
    assembleText ['W', 'S', ' ', '0', 'x', '1', '5', ',', ' ', '0', 'x', 'A', '5'] = some 0x100015A5#32 ∧
    assembleText ['R', 'S', ' ', '2', '1'] = some 0x20001500#32 ∧ assembleText ['R', 'X'] = some 0x50000000#32 ∧
    assembleText ['W', 'L', ' ', '0', ',', '2', '5', '6'] = none ∧ assembleText ['R', 'L'] = none ∧
    assembleText ['R', 'L', ' ', '1', 'A'] = none := by decide

/-! ## The codec (R101 to R108) -/

/-- CS1, CS4, CS8, CS11. -/
theorem test_encodeShortWrite :
    encodeShortWrite 0x00#16 0x00#8 = [0x01#8, 0x00#8] ∧ encodeShortWrite 0x2A#16 0x07#8 = [0x55#8, 0x07#8] ∧
    encodeShortWrite 0x40#16 0x11#8 = [0x01#8, 0x11#8] ∧ encodeShortWrite 0xFFFF#16 0x44#8 = [0x7F#8, 0x44#8] := by decide

/-- CR3, CR8, CR10. -/
theorem test_encodeShortRead :
    encodeShortReadHeader 0x15#16 = 0x2A#8 ∧ encodeShortReadHeader 0x40#16 = 0x00#8 ∧
    encodeShortReadHeader 0xFFFF#16 = 0x7E#8 := by decide

/-- CLW2, CLW5, CLW10, CLW12. -/
theorem test_encodeLongWrite :
    encodeLongWrite 0x007#16 0x5A#8 = [0x80#8, 0xF0#8, 0x5A#8] ∧
    encodeLongWrite 0x155#16 0x00#8 = [0xAA#8, 0xB0#8, 0x00#8] ∧
    encodeLongWrite 0x400#16 0x00#8 = [0x80#8, 0x10#8, 0x00#8] ∧
    encodeLongWrite 0xFFFF#16 0xAA#8 = [0xFF#8, 0xF0#8, 0xAA#8] := by decide

/-- CLR2, CLR12, CLR16, CLR18. -/
theorem test_encodeLongRead :
    encodeLongReadHeader 0x007#16 = [0x80#8, 0xE0#8] ∧ encodeLongReadHeader 0x308#16 = [0xE1#8, 0x00#8] ∧
    encodeLongReadHeader 0x401#16 = [0x80#8, 0x20#8] ∧ encodeLongReadHeader 0xFFFF#16 = [0xFF#8, 0xE0#8] := by decide

/-- CD1, CD4, CD5, CD7. -/
theorem test_decodeHeaders :
    decodeShortHeader 0x73#8 = ⟨0#1, 0x39#6, 1#1⟩ ∧ decodeShortHeader 0x7E#8 = ⟨0#1, 0x3F#6, 0#1⟩ ∧
    decodeLongHeader 0xE0#8 0x20#8 = ⟨1#1, 0x301#10, 0#1, 0#4⟩ ∧
    decodeLongHeader 0xFF#8 0xF0#8 = ⟨1#1, 0x3FF#10, 1#1, 0#4⟩ := by decide

/-- R75: the length of a header from its first byte. -/
theorem test_headerLength : headerLength 0x7F#8 = 1 ∧ headerLength 0x80#8 = 2 := by decide

/-! ## A small state for single steps -/

/-- The example instance of spec/95_test_vectors.md (PRESUMED: its values are the spec's general knowledge G1). -/
def exampleParams : Params := ⟨.short, 0x39#16, 0x04#8, 0x00#8, 0x300#10, 0x301#10⟩

/-- Transaction fields that hold `bytes`. -/
def withTx (bytes : List Byte) (rxn : BitVec 1) (h : Handle) : Handle :=
  { h with txbuf := Vector.ofFn fun i => bytes[i.val]?.getD 0#8, txlen := BitVec.ofNat 2 bytes.length, rxn := rxn }

/-- Fields that meet the invariants in each sequencing state: a session of length 5 at data index 2; or RS 0x39. -/
def exampleHandle (x : St) : Handle :=
  let base : Handle :=
    { st := x, idx := 0#8, inProgress := x.inSession, frameLength := 5#8, frameBuffer := Vector.replicate 127 0xAA#8
      linkQuality := 0xBB#8, signalStrength := 0xCC#8, txbuf := Vector.replicate 3 0#8, txlen := 1#2, rxn := 0#1
      inflight := x ≠ .idle, pendOp := 0x5#4, err := .ok, errPhase := 0#3, rxCode := 2#3, rxErrPhase := 1#3
      rxEnableOk := false }
  match x with
  | .idle => base
  | .regBusy => withTx [0x72#8] 1#1 { base with pendOp := 0x2#4 }
  | .rxDisable => withTx [0x73#8, 0x04#8] 0#1 { base with frameLength := 0xFF#8 }
  | .rxLen => withTx [0xE0#8, 0x00#8] 1#1 { base with frameLength := 0xFF#8 }
  | .rxData => withTx [0xE0#8, 0x60#8] 1#1 { base with idx := 2#8 }
  | .rxLq => withTx [0xE0#8, 0xC0#8] 1#1 { base with idx := 5#8 }
  | .rxSs => withTx [0xE0#8, 0xE0#8] 1#1 { base with idx := 5#8 }
  | .rxEnable => withTx [0x73#8, 0x00#8] 0#1 { base with idx := 5#8 }

/-- A state in sequencing state `x` with these events to come. -/
def exampleState (x : St) (inputs : List Input) : State where
  h := exampleHandle x
  params := exampleParams
  inputs := inputs
  responses := [⟨0x1#4, .ok, 0x00#8⟩]
  answer := none
  bus := []
  accesses := []
  draws := 7

theorem exampleHandle_inv (x : St) : (exampleHandle x).Inv ∧ (exampleHandle x).DrainInv := by cases x <;> decide

theorem exampleHandle_transaction (x : St) : (exampleHandle x).st.inSession = true →
    (exampleHandle x).pendOp = 0x5#4 ∧ some (exampleHandle x).transaction = (exampleState x []).sessionTransaction := by
  cases x <;> decide

theorem exampleHandle_carries : (exampleHandle .regBusy).carries (.frameShortRead 0x39#6) := ⟨rfl, by decide, rfl⟩

/-- The example states meet every invariant. -/
theorem exampleState_inv (x : St) (inputs : List Input) : (exampleState x inputs).Inv := by
  refine ⟨(exampleHandle_inv x).1, (exampleHandle_inv x).2, exampleHandle_transaction x, ?_⟩
  cases x
  case regBusy => exact fun _ => ⟨_, exampleHandle_carries, rfl⟩
  all_goals exact nofun

/-- The outcome is a next state with the given property. -/
def nextHas (o : Host.Outcome State Fault Refusal) (p : State → Bool) : Bool :=
  match o with
  | .next t => p t
  | .fault _ => false
  | .refused _ => false

theorem exists_of_nextHas {o : Host.Outcome State Fault Refusal} {p : State → Bool} (h : nextHas o p = true) :
    ∃ t, o = .next t ∧ p t = true := by
  cases o with
  | next t => exact ⟨t, rfl, h⟩
  | fault _ => simp [nextHas] at h
  | refused _ => simp [nextHas] at h

/-- An idle block about to take a word, a block in state `x` about to take an answer. -/
abbrev taking (w : CommandWord) : State := exampleState .idle [.command w]
abbrev answering (x : St) (ok : Bool) (rx : Byte) : State := exampleState x [.answer ⟨ok, rx⟩]

/-! ## Single steps -/

/-- W3: `WS 0xFFFF, 0xA5` puts `[0x7F, 0xA5]` on the bus. -/
theorem test_step_ws : nextHas (step (taking 0x10FFFFA5#32)) (fun t =>
    t.h.st = .regBusy ∧ t.h.pendOp = 0x1#4 ∧ t.bus = [⟨[0x7F#8, 0xA5#8], 0#1⟩] ∧ t.h.txlen = 2#2 ∧ t.h.inflight) := by decide

/-- REG7: WS while REG_BUSY is answered BUSY and nothing is issued. -/
theorem test_step_ws_busy : nextHas (step (exampleState .regBusy [.command 0x10003604#32])) (fun t =>
    t.responses.getLast? = some ⟨0x1#4, .busy, 0x00#8⟩ ∧ t.h.pendOp = 0x2#4 ∧ t.bus = []) := by decide

/-- REG2. -/
theorem test_step_rs : nextHas (step (taking 0x20003900#32)) (fun t =>
    t.h.st = .regBusy ∧ t.h.pendOp = 0x2#4 ∧ t.bus = [⟨[0x72#8], 1#1⟩] ∧ t.h.txlen = 1#2 ∧ t.h.rxn = 1#1) := by decide

/-- W5. -/
theorem test_step_wl : nextHas (step (taking 0x3002AA07#32)) (fun t =>
    t.h.pendOp = 0x3#4 ∧ t.bus = [⟨[0xD5#8, 0x50#8, 0x07#8], 0#1⟩] ∧ t.h.txlen = 3#2) := by decide

/-- W6. -/
theorem test_step_rl : nextHas (step (taking 0x4002AA00#32)) (fun t =>
    t.h.pendOp = 0x4#4 ∧ t.bus = [⟨[0xD5#8, 0x40#8], 1#1⟩] ∧ t.h.rxn = 1#1) := by decide

/-- W8: RX opens a session and writes 0x04 to short 0x39. -/
theorem test_step_rx : nextHas (step (taking 0x5FFFFFFF#32)) (fun t =>
    t.h.st = .rxDisable ∧ t.h.inProgress ∧ t.h.frameLength = 0xFF#8 ∧ t.h.pendOp = 0x5#4 ∧
    t.bus = [⟨[0x73#8, 0x04#8], 0#1⟩] ∧ t.responses = (taking 0#32).responses) := by decide

/-- W9. -/
theorem test_step_reserved0 : nextHas (step (taking 0x00000000#32)) (fun t =>
    t.responses.getLast? = some ⟨0x0#4, .illegal, 0x00#8⟩ ∧ t.h.st = .idle ∧ t.bus = []) := by decide

/-- REG9: ILLEGAL is decided before BUSY. -/
theorem test_step_reserved7_busy : nextHas (step (exampleState .regBusy [.command 0x70000000#32])) (fun t =>
    t.responses.getLast? = some ⟨0x7#4, .illegal, 0x00#8⟩ ∧ t.h.st = .regBusy) := by decide

/-- W12. -/
theorem test_step_reservedF : nextHas (step (taking 0xFFFFFFFF#32)) (fun t =>
    t.responses.getLast? = some ⟨0xF#4, .illegal, 0x00#8⟩ ∧ t.bus = []) := by decide

/-- REG2 answered: OK with the byte received. -/
theorem test_step_shortRead : nextHas (step (answering .regBusy true 0x04#8)) (fun t =>
    t.responses.getLast? = some ⟨0x2#4, .ok, 0x04#8⟩ ∧ t.h.st = .idle ∧ t.h.inflight = false ∧
    t.accesses = [⟨.short, 0x39#10, .read, .received 0x04#8⟩]) := by decide

/-- REG6 (the failure of a read): data 0x00. -/
theorem test_step_shortRead_fails : nextHas (step (answering .regBusy false 0x5C#8)) (fun t =>
    t.responses.getLast? = some ⟨0x2#4, .busError, 0x00#8⟩ ∧ t.h.err = .ok ∧ t.h.st = .idle) := by decide

/-- RXV2, T1: the disable write answered, the length read `[0xE0, 0x00]` issued. -/
theorem test_step_shortWrite : nextHas (step (answering .rxDisable true 0x00#8)) (fun t =>
    t.h.st = .rxLen ∧ t.bus = [⟨[0xE0#8, 0x00#8], 1#1⟩] ∧
    t.accesses = [⟨.short, 0x39#10, .write 0x04#8, .written⟩]) := by decide

/-- RXV9 with the example's session: the failing re-enable write completes the session with phase 7. -/
theorem test_step_shortWrite_fails : nextHas (step (answering .rxEnable false 0x00#8)) (fun t =>
    t.responses.getLast? = some ⟨0x5#4, .busError, 0x05#8⟩ ∧ t.h.rxErrPhase = 7#3 ∧ t.h.rxCode = 1#3 ∧
    t.h.rxEnableOk = false ∧ t.h.inProgress = false ∧ t.h.st = .idle) := by decide

set_option maxRecDepth 4000 in
/-- RXV1, the third data byte: stored at index 2, the next read is `[0xE0, 0x80]`. -/
theorem test_step_longRead : nextHas (step (answering .rxData true 0x03#8)) (fun t =>
    t.h.frameBuffer[2] = 0x03#8 ∧ t.h.frameBuffer[1] = 0xAA#8 ∧ t.h.idx = 3#8 ∧ t.h.st = .rxData ∧
    t.bus = [⟨[0xE0#8, 0x80#8], 1#1⟩]) := by decide

/-- RXV4: a length of 0x80 is rejected and the re-enable write `[0x73, 0x00]` follows. -/
theorem test_step_longRead_length : nextHas (step (answering .rxLen true 0x80#8)) (fun t =>
    t.h.frameLength = 0x80#8 ∧ t.h.err = .length ∧ t.h.errPhase = 3#3 ∧ t.h.st = .rxEnable ∧
    t.bus = [⟨[0x73#8, 0x00#8], 0#1⟩]) := by decide

/-- REG3: the long write placed as the frame in flight is answered OK. -/
theorem test_step_longWrite : nextHas (step ((exampleState .idle []).withFetchWord 24 0xC01003)) (fun t =>
    t.responses.getLast? = some ⟨0x3#4, .ok, 0x00#8⟩ ∧ t.h.st = .idle ∧
    t.accesses = [⟨.long, 0x200#10, .write 0x03#8, .written⟩]) := by decide

/-- The client takes the oldest response. -/
theorem test_step_take : nextHas (step (exampleState .rxLq [.takeResponse])) (fun t =>
    t.responses = [] ∧ t.h.st = .rxLq) := by decide

/-- R211: reset in a session. -/
theorem test_step_reset : nextHas (step (exampleState .rxData [.reset])) (fun t =>
    t.h.st = .idle ∧ t.h.inProgress = false ∧ t.h.frameLength = 0xFF#8 ∧ t.h.inflight = false ∧ t.bus = []) := by decide

/-- Every row of the opcode table runs as the first instruction after reset. -/
theorem test_rows_run_after_reset :
    ([(32, 0x10000000), (32, 0x20000000), (32, 0x30000000), (32, 0x40000000), (32, 0x50000000), (32, 0x00000000),
      (32, 0x60000000), (32, 0x80000000), (16, 0x0100), (8, 0x00), (24, 0x801000), (16, 0x8000)].all fun (n, w) =>
        nextHas (step (State.reset.withFetchWord n w)) fun _ => true) = true := by decide

/-! ## Witnesses: states and operands that meet the hypotheses of each statement -/

/-- The example state with an answer presented to the frame in flight. -/
abbrev presented (x : St) (ok : Bool) (rx : Byte) : State := { exampleState x [] with answer := some ⟨ok, rx⟩ }

/-- A drain at index `i` of a frame of length `n`. -/
abbrev draining (i n : Byte) (ok : Bool) (rx : Byte) : State :=
  { presented .rxData ok rx with h := { exampleHandle .rxData with idx := i, frameLength := n } }

/-- RX_ENABLE after a failure at a data byte. -/
abbrev cleaningUp (ok : Bool) : State :=
  { answering .rxEnable ok 0x00#8 with h := { exampleHandle .rxEnable with err := .busError, errPhase := 4#3 } }

theorem accepts_taking (w : CommandWord) (h : legalOp (wordOp w)) : (taking w).accepts (wordOp w) :=
  ⟨rfl, h, w, [], rfl, rfl⟩

theorem takes_answering (x : St) (ok : Bool) (rx : Byte) (h : x ≠ .idle) : (answering x ok rx).takes ⟨ok, rx⟩ :=
  ⟨by cases x <;> first | contradiction | rfl, [], rfl⟩

theorem not_reset_taking (w : CommandWord) : ¬ (taking w).isReset := by rintro ⟨_, h⟩; simp [exampleState] at h

theorem not_reset_answering (x : St) (ok : Bool) (rx : Byte) : ¬ (answering x ok rx).isReset := by
  rintro ⟨_, h⟩; simp [exampleState] at h

theorem witness_HeaderDecodeInvertsEncode : (0x3F#16 : Addr16).toNat < 64 ∧ (0x3FF#16 : Addr16).toNat < 1024 := by decide

theorem witness_HeadersAreInjective :
    (encodeShortWrite 0x39#16 0x04#8).take 1 = (encodeShortWrite 0x79#16 0x05#8).take 1 ∧
    encodeShortReadHeader 0x3F#16 = encodeShortReadHeader 0xFFFF#16 ∧
    (encodeLongWrite 0x3FF#16 0x04#8).take 2 = (encodeLongWrite 0x7FF#16 0x05#8).take 2 ∧
    encodeLongReadHeader 0x000#16 = encodeLongReadHeader 0x400#16 := by decide

theorem witness_DecodeInvertsEncode :
    (Instr.reservedOp6to7 0x7#4).wellFormed ∧ (Instr.reservedOp8toF 0x8#4).wellFormed ∧
    (Instr.ws 0xFFFF#16 0xFF#8).wellFormed ∧ (Instr.frameLongWrite 0x3FF#10 0xFF#8).wellFormed := by decide

theorem witness_EncodeInvertsDecode :
    decode (.frame [0xFF#8, 0xF0#8, 0x80#8]) = .ok (.frameLongWrite 0x3FF#10 0x80#8) ∧
    decode (.frame [0x00#8]) = .ok (.frameShortRead 0x00#6) := by decide

theorem witness_CommandFieldsDecode :
    ((0x7#4 : Opcode) = 0x6#4 ∨ (0x7#4 : Opcode) = 0x7#4) ∧ (0x8#4 : Opcode) ≤ 0x8#4 ∧ (0x8#4 : Opcode) ≤ 0xF#4 := by decide

theorem witness_AssemblerWordsDecode :
    0xFFFF ≤ 0xFFFF ∧ 0xFF ≤ 0xFF ∧ 0xFFFF < 0x10000 ∧ 0xFF < 0x100 := by decide

/-- The longest frame and its last byte, a frame of one byte, and the empty frame. -/
theorem witness_FifoAddressesWrap :
    (0#8 : Byte).toNat ≤ 127 ∧ (127#8 : Byte).toNat ≤ 127 ∧ (126#8 : Byte).toNat < (127#8 : Byte).toNat ∧
    (0#8 : Byte).toNat < (1#8 : Byte).toNat := by decide

theorem witness_ResetAbandonsOperation : (exampleState .rxData [.reset]).inputs = .reset :: [] := rfl

theorem witness_StepRunsDecodedInstruction_command :
    (taking 0x100015A5#32).inputs = .command 0x100015A5#32 :: [] ∧
    decode (.word 0x100015A5#32) = .ok (.ws 0x15#16 0xA5#8) := by decide

theorem witness_StepRunsDecodedInstruction_answer :
    (answering .rxDisable true 0#8).inputs = .answer ⟨true, 0#8⟩ :: [] ∧ (answering .rxDisable true 0#8).h.inflight = true ∧
    decode (.frame (answering .rxDisable true 0#8).h.txBytes) = .ok (.frameShortWrite 0x39#6 0x04#8) := by decide

theorem witness_StepRunsDecodedInstruction_events :
    (exampleState .rxLq [.takeResponse]).inputs = .takeResponse :: [] ∧ (exampleState .rxLq []).inputs = [] ∧
    (answering .idle true 0#8).inputs = .answer ⟨true, 0#8⟩ :: [] ∧ (answering .idle true 0#8).h.inflight = false ∧
    (withTx [0xE0#8, 0x21#8] 1#1 (exampleHandle .rxLen)).inflight = true ∧
    decode (.frame (withTx [0xE0#8, 0x21#8] 1#1 (exampleHandle .rxLen)).txBytes) = .error .reservedBits := by decide

theorem witness_RegisterCommandsIssueTheirTransaction : (exampleState .idle []).h.st = .idle := rfl

theorem witness_ReceiveCommandOpensSession :
    (exampleState .idle []).h.st = .idle ∧ (exampleState .regBusy []).h.st ≠ .idle := by decide

theorem witness_BusyBlockRejectsCommands :
    (exampleState .regBusy []).h.st ≠ .idle ∧ (exampleState .rxEnable []).h.st ≠ .idle := by decide

theorem witness_CommandWordAcceptance :
    ¬ legalOp (wordOp 0x70000000#32) ∧ ¬ legalOp (wordOp 0x00000000#32) ∧ ¬ legalOp (wordOp 0x60000000#32) ∧
    legalOp (wordOp 0x5FFFFFFF#32) ∧ (exampleState .rxLq [.command 0x5FFFFFFF#32]).h.st ≠ .idle ∧
    (taking 0x10003904#32).h.st = .idle ∧ wordOp 0x10003904#32 = 0x1#4 ∧ wordOp 0x20003900#32 = 0x2#4 ∧
    wordOp 0x30020003#32 = 0x3#4 ∧ wordOp 0x40030000#32 = 0x4#4 ∧ wordOp 0x5FFFFFFF#32 = 0x5#4 := by decide

/-- W1 and W2; W7 and W8. -/
theorem witness_IgnoredBitsHaveNoEffect :
    0x100015A5#32 &&& significantBits 0x100015A5#32 = 0x1F0015A5#32 &&& significantBits 0x1F0015A5#32 ∧
    0x50000000#32 &&& significantBits 0x50000000#32 = 0x5FFFFFFF#32 &&& significantBits 0x5FFFFFFF#32 := by decide

theorem witness_AnsweredFramesComplete :
    (Instr.frameShortWrite 0x39#6 0x04#8).isFrame ∧ (Instr.frameShortRead 0x39#6).isFrame ∧
    (Instr.frameLongWrite 0x200#10 0x03#8).isFrame ∧ (Instr.frameLongRead 0x37F#10).isFrame ∧
    (draining 126#8 127#8 true 0x7E#8).answer = some ⟨true, 0x7E#8⟩ ∧ (draining 126#8 127#8 true 0x7E#8).h.inflight = true ∧
    (draining 126#8 127#8 true 0x7E#8).h.st ≠ .idle ∧ (draining 126#8 127#8 true 0x7E#8).h.idx.toNat < 127 := by decide

theorem witness_FramesWaitOrStop :
    (exampleState .rxLen []).answer = none ∧
    (presented .idle true 0#8).answer = some ⟨true, 0#8⟩ ∧ (presented .idle true 0#8).h.inflight = false ∧
    ({ exampleHandle .idle with inflight := true }).inflight = true ∧
    ({ exampleHandle .idle with inflight := true }).st = .idle ∧
    (draining 127#8 128#8 true 0#8).h.inflight = true ∧ (draining 127#8 128#8 true 0#8).h.st = .rxData ∧
    127 ≤ (draining 127#8 128#8 true 0#8).h.idx.toNat := by decide

theorem witness_RegisterAnswerResponds :
    (Instr.frameShortRead 0x39#6).isFrame ∧ (presented .regBusy true 4#8).answer = some ⟨true, 4#8⟩ ∧
    (presented .regBusy true 4#8).h.inflight = true ∧ (presented .regBusy true 4#8).h.st = .regBusy := by decide

theorem witness_DisableAnswer :
    (presented .rxDisable true 0#8).h.inflight = true ∧ (presented .rxDisable true 0#8).h.st = .rxDisable ∧
    (presented .rxDisable true 0#8).answer = some ⟨true, 0#8⟩ ∧
    (presented .rxDisable false 0#8).answer = some ⟨false, 0#8⟩ := by decide

/-- Lengths 0, 1, 127, 128 and 255, and a failed read: the clauses meet nowhere. -/
theorem witness_LengthAnswer :
    (presented .rxLen true 0#8).h.inflight = true ∧ (presented .rxLen true 0#8).h.st = .rxLen ∧
    (0#8 : Byte).toNat = 0 ∧ 1 ≤ (1#8 : Byte).toNat ∧ (127#8 : Byte).toNat ≤ 127 ∧ 127 < (128#8 : Byte).toNat ∧
    127 < (255#8 : Byte).toNat ∧ (presented .rxLen false 0#8).answer = some ⟨false, 0#8⟩ := by decide

theorem witness_DataAnswer :
    (draining 2#8 5#8 true 3#8).h.st = .rxData ∧ (draining 2#8 5#8 true 3#8).h.inflight = true ∧
    (draining 2#8 5#8 true 3#8).h.idx + 1#8 ≠ (draining 2#8 5#8 true 3#8).h.frameLength ∧
    (draining 4#8 5#8 true 3#8).h.idx + 1#8 = (draining 4#8 5#8 true 3#8).h.frameLength ∧
    (draining 126#8 127#8 true 3#8).h.idx.toNat < 127 ∧
    (draining 126#8 127#8 true 3#8).h.idx + 1#8 = (draining 126#8 127#8 true 3#8).h.frameLength := by decide

theorem witness_LinkQualityAnswer :
    (presented .rxLq true 0x20#8).h.st = .rxLq ∧ (presented .rxLq true 0x20#8).h.inflight = true ∧
    (presented .rxLq true 0x20#8).answer = some ⟨true, 0x20#8⟩ ∧
    (presented .rxLq false 0#8).answer = some ⟨false, 0#8⟩ := by decide

theorem witness_SignalStrengthAnswer :
    (presented .rxSs true 0x30#8).h.st = .rxSs ∧ (presented .rxSs true 0x30#8).h.inflight = true ∧
    (presented .rxSs true 0x30#8).answer = some ⟨true, 0x30#8⟩ ∧
    (presented .rxSs false 0#8).answer = some ⟨false, 0#8⟩ := by decide

theorem witness_EnableAnswerCompletesSession :
    (Instr.frameShortWrite 0x39#6 0x00#8).isFrame ∧ (presented .rxEnable false 0#8).h.st = .rxEnable ∧
    (presented .rxEnable false 0#8).h.inflight = true ∧
    (presented .rxEnable false 0#8).answer = some ⟨false, 0#8⟩ := by decide

theorem witness_UnusedReceivedByteHasNoEffect :
    (exampleState .rxEnable []).Inv ∧ (exampleState .rxEnable []).h.rxn = 0#1 := ⟨exampleState_inv _ _, by decide⟩

/-- A state that meets every invariant, no reset, and a next state: the hypotheses of StepKeepsBlockInvariants,
StepKeepsDrainInvariants, StepKeepsTransactionInvariant, ParametersAreNeverWritten and SequencerRefinesSourceStates. -/
theorem witness_everyStep :
    (answering .rxData true 3#8).Inv ∧ ¬ (answering .rxData true 3#8).isReset ∧
    ∃ t, step (answering .rxData true 3#8) = .next t ∧ decide (t.h.idx = 3#8) = true :=
  ⟨exampleState_inv _ _, not_reset_answering _ _ _, exists_of_nextHas (by decide)⟩

/-- R23's mapping, state by state. -/
theorem test_source_places :
    [St.idle, .rxDisable, .rxLen, .rxData, .rxLq, .rxSs].map St.source =
      [.inState .idle, .inState .receiving, .inState .receiving, .inState .draining, .inState .draining,
        .inState .draining] ∧
    St.rxEnable.source = .drainingToIdle ∧ St.regBusy.source = .outside := by decide

/-- Both sides of the length limit in SequencerRefinesSourceStates: 127 enters Draining, 128 fails the session. -/
theorem witness_SequencerRefinesSourceStates :
    nextHas (step (answering .rxLen true 127#8)) (fun t => t.h.st.source = .inState .draining) ∧
    nextHas (step (answering .rxLen true 128#8)) (fun t => t.h.st.source = .drainingToIdle) := by decide

theorem witness_InvariantStatesNeverStop :
    (answering .rxSs false 0#8).Inv ∧ ¬ (answering .rxSs false 0#8).strayNext :=
  ⟨exampleState_inv _ _, by rintro ⟨h, _⟩; revert h; decide⟩

theorem witness_SingleTransactionInFlight_idle :
    (taking 0x10003904#32).h.inflight = false ∧ ¬ (taking 0x10003904#32).isReset ∧
    ∃ t, step (taking 0x10003904#32) = .next t ∧ decide (t.bus ≠ (taking 0x10003904#32).bus) = true :=
  ⟨rfl, not_reset_taking _, exists_of_nextHas (by decide)⟩

theorem witness_SingleTransactionInFlight_busy :
    (answering .rxEnable true 0#8).takes ⟨true, 0#8⟩ ∧ (exampleState .rxLq [.takeResponse]).h.inflight = true ∧
    (∀ a, ¬ (exampleState .rxLq [.takeResponse]).takes a) ∧ ¬ (exampleState .rxLq [.takeResponse]).isReset ∧
    ∃ t, step (exampleState .rxLq [.takeResponse]) = .next t ∧ decide (t.h.inflight = true) = true :=
  ⟨takes_answering _ _ _ (by decide), rfl, by rintro a ⟨_, _, h⟩; simp [exampleState] at h,
    by rintro ⟨_, h⟩; simp [exampleState] at h, exists_of_nextHas (by decide)⟩

theorem witness_OnlyAnswersMoveABusyBlock :
    (exampleState .rxLq [.command 0x50000000#32, .takeResponse]).h.st ≠ .idle ∧
    ∀ e ∈ (exampleState .rxLq [.command 0x50000000#32, .takeResponse]).inputs,
      (∃ w, e = Input.command w) ∨ e = Input.takeResponse := by
  refine ⟨by decide, ?_⟩
  intro e he
  simp only [exampleState, List.mem_cons, List.not_mem_nil, or_false] at he
  rcases he with rfl | rfl
  · exact .inl ⟨_, rfl⟩
  · exact .inr rfl

/-- A step that changes each field: the hypotheses of the clauses of FieldsHaveOnlyTheirWriters. -/
theorem witness_FieldsHaveOnlyTheirWriters_session :
    ∃ t, step (taking 0x50000000#32) = .next t ∧
      decide (t.h.st ≠ (exampleHandle .idle).st ∧ t.h.inProgress ≠ (exampleHandle .idle).inProgress ∧
        t.h.frameLength ≠ (exampleHandle .idle).frameLength ∧ t.h.txlen ≠ (exampleHandle .idle).txlen) = true :=
  exists_of_nextHas (by decide)

theorem witness_FieldsHaveOnlyTheirWriters_register :
    ∃ t, step (taking 0x10003904#32) = .next t ∧ decide (t.h.pendOp ≠ (exampleHandle .idle).pendOp) = true :=
  exists_of_nextHas (by decide)

set_option maxRecDepth 4000 in
theorem witness_FieldsHaveOnlyTheirWriters_data :
    ∃ t, step (answering .rxData true 3#8) = .next t ∧
      decide (t.h.idx ≠ (exampleHandle .rxData).idx ∧ t.h.frameBuffer[2] ≠ (exampleHandle .rxData).frameBuffer[2]) = true :=
  exists_of_nextHas (by decide)

theorem witness_FieldsHaveOnlyTheirWriters_quality :
    (∃ t, step (answering .rxLq true 0x20#8) = .next t ∧
      decide (t.h.linkQuality ≠ (exampleHandle .rxLq).linkQuality) = true) ∧
    (∃ t, step (answering .rxSs true 0x30#8) = .next t ∧
      decide (t.h.signalStrength ≠ (exampleHandle .rxSs).signalStrength) = true) :=
  ⟨exists_of_nextHas (by decide), exists_of_nextHas (by decide)⟩

theorem witness_FieldsHaveOnlyTheirWriters_errors :
    (∃ t, step (answering .rxLq false 0#8) = .next t ∧ decide (t.h.err ≠ (exampleHandle .rxLq).err) = true) ∧
    (∃ t, step (answering .rxEnable true 0#8) = .next t ∧ decide (t.h.rxCode ≠ (exampleHandle .rxEnable).rxCode) = true) :=
  ⟨exists_of_nextHas (by decide), exists_of_nextHas (by decide)⟩

/-- Also of FrameLengthWrites and FirstErrorWins: the start of a session. -/
theorem witness_InProgressSetAndCleared :
    (taking 0x50000000#32).accepts 0x5#4 ∧ ¬ (taking 0x50000000#32).isReset ∧
    (answering .rxEnable true 0#8).answeredIn .rxEnable ∧ ¬ (answering .rxEnable true 0#8).isReset ∧
    ¬ (answering .rxLq true 0#8).accepts 0x5#4 ∧ ¬ (answering .rxLq true 0#8).answeredIn .rxEnable :=
  ⟨accepts_taking 0x50000000#32 (by decide), not_reset_taking _, ⟨rfl, _, takes_answering _ _ _ (by decide)⟩, not_reset_answering _ _ _,
    by rintro ⟨h, _⟩; revert h; decide, by rintro ⟨h, _⟩; revert h; decide⟩

theorem witness_FrameLengthWrites :
    (answering .rxLen true 0xFF#8).takes ⟨true, 0xFF#8⟩ ∧ (answering .rxLen true 0xFF#8).h.st = .rxLen ∧
    (∃ t, step (answering .rxLen true 0xFF#8) = .next t ∧ decide (t.h.frameLength = 0xFF#8) = true) ∧
    ¬ (answering .rxLen false 7#8).accepts 0x5#4 ∧
    (∀ a, (answering .rxLen false 7#8).takes a → (answering .rxLen false 7#8).h.st = .rxLen → a.ok = false) ∧
    (∃ t, step (answering .rxLen false 7#8) = .next t ∧ decide (t.h.frameLength = 0xFF#8) = true) :=
  ⟨takes_answering _ _ _ (by decide), rfl, exists_of_nextHas (by decide), by rintro ⟨h, _⟩; revert h; decide,
    by rintro a ⟨_, _, h⟩ _; simp [exampleState] at h; simp [← h.1], exists_of_nextHas (by decide)⟩

set_option maxRecDepth 4000 in
theorem witness_FrameBufferWrites :
    (answering .rxData true 3#8).h.Inv ∧ ¬ (answering .rxData true 3#8).isReset ∧
    ∃ t, step (answering .rxData true 3#8) = .next t ∧
      decide (t.h.frameBuffer[2] ≠ (answering .rxData true 3#8).h.frameBuffer[2]) = true :=
  ⟨(exampleState_inv _ _).1, not_reset_answering _ _ _, exists_of_nextHas (by decide)⟩

theorem witness_QualityByteWrites :
    (answering .rxLq true 0x20#8).takes ⟨true, 0x20#8⟩ ∧ (answering .rxLq true 0x20#8).h.st = .rxLq ∧
    (answering .rxSs true 0x30#8).takes ⟨true, 0x30#8⟩ ∧ (answering .rxSs true 0x30#8).h.st = .rxSs ∧
    (∀ a, (answering .rxLq false 7#8).takes a → (answering .rxLq false 7#8).h.st = .rxLq → a.ok = false) ∧
    (∀ a, (answering .rxSs false 7#8).takes a → (answering .rxSs false 7#8).h.st = .rxSs → a.ok = false) :=
  ⟨takes_answering _ _ _ (by decide), rfl, takes_answering _ _ _ (by decide), rfl,
    by rintro a ⟨_, _, h⟩ _; simp [exampleState] at h; simp [← h.1],
    by rintro a ⟨_, _, h⟩ _; simp [exampleState] at h; simp [← h.1]⟩

theorem witness_FirstErrorWins :
    (cleaningUp false).h.Inv ∧ (cleaningUp false).h.inProgress = true ∧ (cleaningUp false).h.err ≠ .ok ∧
    (∃ t, step (cleaningUp false) = .next t ∧ decide (t.h.errPhase = 4#3) = true) ∧
    (answering .rxLq false 0#8).h.inProgress = true ∧ (answering .rxLq false 0#8).h.err = .ok ∧
    (answering .rxLq false 0#8).takes ⟨false, 0#8⟩ ∧
    (answering .rxLen true 128#8).h.st = .rxLen ∧ (answering .rxLen true 128#8).takes ⟨true, 128#8⟩ ∧
    127 < (128#8 : Byte).toNat ∧
    (∃ t, step (answering .rxLen true 128#8) = .next t ∧ decide (t.h.err ≠ .ok) = true) :=
  ⟨by decide, rfl, by decide, exists_of_nextHas (by decide), rfl, rfl, takes_answering _ _ _ (by decide), rfl,
    takes_answering _ _ _ (by decide), by decide, exists_of_nextHas (by decide)⟩

theorem witness_ResultFieldsAtCompletion :
    (answering .rxEnable true 0#8).takes ⟨true, 0#8⟩ ∧ (answering .rxEnable true 0#8).h.st = .rxEnable ∧
    ¬ (answering .rxLq true 0#8).answeredIn .rxEnable ∧ ¬ (answering .rxLq true 0#8).isReset :=
  ⟨takes_answering _ _ _ (by decide), rfl, by rintro ⟨h, _⟩; revert h; decide, not_reset_answering _ _ _⟩

/-- A BUSY response, and the response owed to a command in progress. -/
theorem witness_ResponsesLeaveInOrder :
    (exampleState .rxLq [.command 0x50000000#32]).Inv ∧
    (∃ t, step (exampleState .rxLq [.command 0x50000000#32]) = .next t ∧
      decide (t.responses = (exampleState .rxLq []).responses ++ [⟨0x5#4, .busy, 0#8⟩]) = true) ∧
    (answering .regBusy true 4#8).Inv ∧ (answering .regBusy true 4#8).h.st ≠ .idle ∧
    (∃ t, step (answering .regBusy true 4#8) = .next t ∧
      decide (t.h.st = .idle ∧ t.responses = (exampleState .regBusy []).responses ++ [⟨0x2#4, .ok, 4#8⟩]) = true) :=
  ⟨exampleState_inv _ _, exists_of_nextHas (by decide), exampleState_inv _ _, by decide, exists_of_nextHas (by decide)⟩

theorem witness_CompletionClearsInProgress :
    (answering .rxEnable true 0#8).Inv ∧ ¬ (answering .rxEnable true 0#8).isReset ∧
    (answering .rxEnable true 0#8).h.inProgress = true ∧
    (∃ t, step (answering .rxEnable true 0#8) = .next t ∧
      decide (t.h.inProgress = false ∧ t.responses = (exampleState .rxEnable []).responses ++ [⟨0x5#4, .ok, 5#8⟩]) = true) :=
  ⟨exampleState_inv _ _, not_reset_answering _ _ _, rfl, exists_of_nextHas (by decide)⟩

theorem witness_EitherOrderOfCommandAndAnswer :
    (exampleState .regBusy []).Inv ∧ (exampleState .regBusy []).h.st ≠ .idle ∧ legalOp (wordOp 0x10003604#32) :=
  ⟨exampleState_inv _ _, by decide, by decide⟩

/-- The events of a session: the longest frame and the empty one. -/
theorem witness_SuccessfulSession (data : List Byte) (h : data = [] ∨ data = List.replicate 127 0x5A#8) :
    wordOp 0x50000000#32 = 0x5#4 ∧ data.length ≤ 127 ∧
    (exampleState .idle (.command 0x50000000#32 :: .answer ⟨true, 0#8⟩ ::
      .answer ⟨true, BitVec.ofNat 8 data.length⟩ :: (okAnswers (data ++ [0x20#8, 0x30#8, 0#8]) ++ []))).h.st = .idle := by
  rcases h with rfl | rfl <;> exact ⟨by decide, by simp, rfl⟩

theorem witness_SessionEndsBeforeDrain :
    (exampleState .idle [.command 0x50000000#32, .answer ⟨false, 0#8⟩, .answer ⟨true, 0#8⟩]).inputs =
      .command 0x50000000#32 :: .answer ⟨false, 0#8⟩ :: .answer ⟨true, 0#8⟩ :: [] ∧
    (exampleState .idle [.command 0x50000000#32, .answer ⟨true, 0#8⟩, .answer ⟨false, 0#8⟩, .answer ⟨false, 0#8⟩]).inputs =
      .command 0x50000000#32 :: .answer ⟨true, 0#8⟩ :: .answer ⟨false, 0#8⟩ :: .answer ⟨false, 0#8⟩ :: [] ∧
    127 < (128#8 : Byte).toNat ∧
    (exampleState .idle [.command 0x50000000#32, .answer ⟨true, 0#8⟩, .answer ⟨true, 128#8⟩, .answer ⟨true, 0#8⟩]).inputs =
      .command 0x50000000#32 :: .answer ⟨true, 0#8⟩ :: .answer ⟨true, 128#8⟩ :: .answer ⟨true, 0#8⟩ :: [] ∧
    wordOp 0x50000000#32 = 0x5#4 := by decide

/-- RXV3 (failure at index 2 of 5), RXV16 (index 0 of 4), and index 126 of 127. -/
theorem witness_SessionFailsInDrain :
    [0x01#8, 0x02#8].length < (5#8 : Byte).toNat ∧ ([] : List Byte).length < (4#8 : Byte).toNat ∧
    (List.replicate 126 0x5A#8).length < (127#8 : Byte).toNat ∧ (127#8 : Byte).toNat ≤ 127 ∧
    (exampleState .idle (.command 0x50000000#32 :: .answer ⟨true, 0#8⟩ :: .answer ⟨true, 5#8⟩ ::
      (okAnswers [0x01#8, 0x02#8] ++ .answer ⟨false, 0#8⟩ :: .answer ⟨true, 0#8⟩ :: []))).h.st = .idle :=
  ⟨by decide, by decide, by simp, by decide, rfl⟩

/-- RXV13, RXV14, RXV9. -/
theorem witness_SessionFailsAfterDrain :
    [0x0A#8, 0x0B#8].length ≤ 127 ∧
    (exampleState .idle (.command 0x50000000#32 :: .answer ⟨true, 0#8⟩ :: .answer ⟨true, 2#8⟩ ::
      (okAnswers [0x0A#8, 0x0B#8] ++ .answer ⟨false, 0#8⟩ :: .answer ⟨true, 0#8⟩ :: []))).h.st = .idle ∧
    (exampleState .idle (.command 0x50000000#32 :: .answer ⟨true, 0#8⟩ :: .answer ⟨true, 2#8⟩ ::
      (okAnswers ([0x0A#8, 0x0B#8] ++ [0x20#8]) ++ .answer ⟨false, 0#8⟩ :: .answer ⟨true, 0#8⟩ :: []))).h.st = .idle ∧
    (exampleState .idle (.command 0x50000000#32 :: .answer ⟨true, 0#8⟩ :: .answer ⟨true, 1#8⟩ ::
      (okAnswers ([0xAB#8] ++ [0x20#8, 0x30#8]) ++ .answer ⟨false, 0#8⟩ :: []))).h.st = .idle := by decide

theorem witness_AnsweredSessionsComplete :
    (exampleState .rxDisable ((List.replicate 132 ⟨true, 127#8⟩).map Input.answer ++ [])).Inv ∧
    (exampleState .rxDisable ((List.replicate 132 ⟨true, 127#8⟩).map Input.answer ++ [])).h.inProgress = true ∧
    132 ≤ (List.replicate 132 (⟨true, 127#8⟩ : Answer)).length :=
  ⟨exampleState_inv _ _, rfl, by simp⟩

end Sys2Proof.Tests
end

section

namespace Sys2Proof.Machine

/-- Settles O16: the equation of `step` for each event, with a packet's decoding read as that of a word or of a frame. -/
theorem stepRunsDecodedInstruction : Obligations.StepRunsDecodedInstruction := by
  unfold Obligations.StepRunsDecodedInstruction
  refine ⟨?command, ?answer, ?take, ?noInput, ?stray, ?noFrame⟩
  case command =>
    intro s i w rest hin hdec
    have hi : decodeCommand w = i := Except.ok.inj hdec
    rw [step_of_command hin, hi]
  case answer => exact fun _ _ _ _ hin hfly hdec => step_of_answer hin hfly hdec
  case take => exact fun _ _ hin => step_of_take hin
  case noInput => exact fun _ hin => step_of_no_input hin
  case stray => exact fun _ _ _ hin hfly => step_of_stray hin hfly
  case noFrame => exact fun _ _ _ _ hin hfly hdec => step_of_no_frame hin hfly hdec

end Sys2Proof.Machine
end

section
/-! SUPPORT. What a step that is no reset does to the block, in one flat list: the fields, the transactions issued and
the configuration after the step are those of one operation on the state before it (R121, R141 to R150). -/

namespace Sys2Proof.Machine

/-! ## The event a step takes -/

theorem head_of_takes {s : State} {a : Answer} (tk : s.takes a) : s.inputs.head? = some (.answer a) := by
  obtain ⟨-, rest, hin⟩ := tk
  rw [hin, List.head?_cons]

theorem head_of_accepts {s : State} {op : Opcode} (acc : s.accepts op) :
    ∃ w, s.inputs.head? = some (.command w) ∧ wordOp w = op := by
  obtain ⟨-, -, w, rest, hin, hop⟩ := acc
  exact ⟨w, by rw [hin, List.head?_cons], hop⟩

theorem head_of_isReset {s : State} (hr : s.isReset) : s.inputs.head? = some .reset := by
  obtain ⟨rest, hin⟩ := hr
  rw [hin, List.head?_cons]

/-- At most one answer is taken next. -/
theorem takes_unique {s : State} {a b : Answer} (ha : s.takes a) (hb : s.takes b) : b = a := by
  simpa [head_of_takes ha, eq_comm] using head_of_takes hb

/-- The operation accepted next is that of the word presented next. -/
theorem wordOp_of_accepts {s : State} {op : Opcode} {w : CommandWord}
    (hw : s.inputs.head? = some (.command w)) (acc : s.accepts op) : op = wordOp w := by
  obtain ⟨w', hw', rfl⟩ := head_of_accepts acc
  rw [hw] at hw'
  injection hw' with e
  injection e with e
  rw [e]

theorem not_accepts_of_takes {s : State} {a : Answer} (tk : s.takes a) (op : Opcode) : ¬ s.accepts op := by
  intro acc
  obtain ⟨w, hw, -⟩ := head_of_accepts acc
  simp [head_of_takes tk] at hw

theorem not_isReset_of_takes {s : State} {a : Answer} (tk : s.takes a) : ¬ s.isReset := by
  intro hr
  simpa [head_of_takes tk] using head_of_isReset hr

theorem not_isReset_of_accepts {s : State} {op : Opcode} (acc : s.accepts op) : ¬ s.isReset := by
  intro hr
  obtain ⟨w, hw, -⟩ := head_of_accepts acc
  simp [head_of_isReset hr] at hw

/-- A step that is a reset runs the reset (R211). -/
theorem eq_resetBlock_of_isReset {s t : State} (h : step s = .next t) (hr : s.isReset) :
    ∃ rest, t = resetBlock { s with inputs := rest } := by
  obtain ⟨rest, hin⟩ := hr
  rw [step_of_reset hin] at h
  exact ⟨rest, (Host.Outcome.next.inj h).symm⟩

/-! ## The effect of a step -/

/-- What taking the answer `a` in the sequencing state given does to the block, one line per branch of the response
rules (R121, R143 to R150). -/
inductive AnswerEffect (a : Answer) (s : State) : St → State → Prop
  | registerDone : AnswerEffect a s .regBusy { s with h := { s.h with st := .idle, inflight := false } }
  | failed {x : St} (opened : x.inSession = true) (notLast : x ≠ .rxEnable) (ok : a.ok = false) :
      AnswerEffect a s x (failSession .busError s)
  | disabled (ok : a.ok = true) :
      AnswerEffect a s .rxDisable (issue (fifoRead (fifoLenAddr s.params)) { s with h := { s.h with st := .rxLen } })
  | tooLong (ok : a.ok = true) (long : 127 < a.rx.toNat) :
      AnswerEffect a s .rxLen (failSession .length { s with h := { s.h with frameLength := a.rx } })
  | emptyFrame (ok : a.ok = true) (zero : a.rx = 0#8) :
      AnswerEffect a s .rxLen (issue (fifoRead (fifoDataAddr s.params 0#8))
        { s with h := { s.h with frameLength := a.rx, st := .rxLq } })
  | drainStart (ok : a.ok = true) (pos : a.rx ≠ 0#8) (fits : a.rx.toNat ≤ 127) :
      AnswerEffect a s .rxLen (issue (fifoRead (fifoDataAddr s.params 0#8))
        { s with h := { s.h with frameLength := a.rx, idx := 0#8, st := .rxData } })
  | lastByte (ok : a.ok = true) (room : s.h.idx.toNat < 127) (last : s.h.idx + 1#8 = s.h.frameLength) :
      AnswerEffect a s .rxData (issue (fifoRead (fifoDataAddr s.params s.h.frameLength))
        { s with h := { s.h.storeByte a.rx with st := .rxLq } })
  | nextByte (ok : a.ok = true) (room : s.h.idx.toNat < 127) (more : s.h.idx + 1#8 ≠ s.h.frameLength) :
      AnswerEffect a s .rxData (issue (fifoRead (fifoDataAddr s.params (s.h.idx + 1#8)))
        { s with h := s.h.storeByte a.rx })
  | lqRead (ok : a.ok = true) :
      AnswerEffect a s .rxLq (issue (fifoRead (fifoSsAddr s.params s.h.frameLength))
        { s with h := { s.h with linkQuality := a.rx, st := .rxSs } })
  | ssRead (ok : a.ok = true) : AnswerEffect a s .rxSs (toEnable { s with h := { s.h with signalStrength := a.rx } })
  | completed : AnswerEffect a s .rxEnable { s with h := { s.h.completed a.ok with inflight := false } }

/-- What a step that is no reset does to the block: nothing, the start of a command, or what the answer taken does. -/
inductive Effect (s : State) : State → Prop
  | none (noCommand : ∀ op, ¬ s.accepts op) (noAnswer : ∀ a, ¬ s.takes a) : Effect s s
  | registerStart {w : CommandWord} (acc : s.accepts (wordOp w)) (notRx : wordOp w ≠ 0x5#4) :
      Effect s (startRegister (wordOp w) (registerTransaction w) s)
  | sessionStart (acc : s.accepts 0x5#4) : Effect s (startSession s)
  | answer {a : Answer} {x : St} {v : State} (tk : s.takes a) (st : s.h.st = x) (ans : AnswerEffect a s x v) :
      Effect s v

/-- The block in `t` is the block in `v`: its fields, the transactions issued so far and the configuration agree. -/
structure SameBlock (t v : State) : Prop where
  h : t.h = v.h
  bus : t.bus = v.bus
  params : t.params = v.params

theorem recordError_inflight (h : Handle) (c : Status) (b : Bool) :
    ({ h with inflight := b } : Handle).recordError c = { h.recordError c with inflight := b } := by
  unfold Handle.recordError; split <;> rfl

theorem completed_inflight (h : Handle) (ok b : Bool) :
    ({ h with inflight := b } : Handle).completed ok = { h.completed ok with inflight := b } := by
  cases ok
  · simp only [Handle.completed, recordError_inflight]; rfl
  · rfl

/-- The failure path writes `h.inflight`, so it does not matter that the answer has ended the transaction. -/
theorem sameBlock_failSession (c : Status) {t v : State} (hh : t.h = { v.h with inflight := false })
    (hp : t.params = v.params) (hb : t.bus = v.bus) (hd : t.draws = v.draws) :
    SameBlock (failSession c t) (failSession c v) := by
  refine ⟨?_, by simp [hp, hb], by simp [hp]⟩
  unfold failSession toEnable issue
  simp only [hh, hp, hd, recordError_inflight]

/-- Everything an answer can do (R196), read off the branches of the response rules. -/
theorem answerEffect_of_responded {a : Answer} {s t : State} {sp : Scheme} {ad : LongAddr} {k : AccessKind}
    {rest : List Input} {p : Option Answer}
    (ht : Responded a (finishTransaction sp ad k a { s with inputs := rest, answer := p }) t) :
    ∃ v, AnswerEffect a s s.h.st v ∧ SameBlock t v := by
  have fails {x : St} (h : s.h.st = x) (ok : ¬ a.ok = true) (hx : x.inSession = true ∧ x ≠ .rxEnable) :
      ∃ v, AnswerEffect a s s.h.st v ∧
        SameBlock (failSession .busError (finishTransaction sp ad k a { s with inputs := rest, answer := p })) v :=
    ⟨_, .failed (h ▸ hx.1) (h ▸ hx.2) (by simpa using ok), sameBlock_failSession _ rfl rfl rfl rfl⟩
  cases ht with
  | register h =>
    rw [show s.h.st = .regBusy from h]; exact ⟨_, .registerDone, rfl, rfl, rfl⟩
  | disable h =>
    unfold rxDisableAnswer
    split
    · rw [show s.h.st = .rxDisable from h]; exact ⟨_, .disabled ‹_›, rfl, rfl, rfl⟩
    · exact fails h ‹_› (by decide)
  | len h =>
    unfold rxLenAnswer
    split
    · dsimp only
      split
      · rw [show s.h.st = .rxLen from h]; exact ⟨_, .tooLong ‹_› ‹_›, sameBlock_failSession _ rfl rfl rfl rfl⟩
      split
      · rw [show s.h.st = .rxLen from h]; exact ⟨_, .emptyFrame ‹_› ‹_›, rfl, rfl, rfl⟩
      · rw [show s.h.st = .rxLen from h]; exact ⟨_, .drainStart ‹_› ‹_› (Nat.le_of_not_lt ‹_›), rfl, rfl, rfl⟩
    · exact fails h ‹_› (by decide)
  | data h ok room =>
    unfold readNext
    split
    · rw [show s.h.st = .rxData from h]; exact ⟨_, .lastByte ok room ‹_›, rfl, rfl, rfl⟩
    · rw [show s.h.st = .rxData from h]; exact ⟨_, .nextByte ok room ‹_›, rfl, rfl, rfl⟩
  | dataFailed h ok => exact fails h (by simp [ok]) (by decide)
  | lq h =>
    unfold rxLqAnswer
    split
    · rw [show s.h.st = .rxLq from h]; exact ⟨_, .lqRead ‹_›, rfl, rfl, rfl⟩
    · exact fails h ‹_› (by decide)
  | ss h =>
    unfold rxSsAnswer
    split
    · rw [show s.h.st = .rxSs from h]; exact ⟨_, .ssRead ‹_›, rfl, rfl, rfl⟩
    · exact fails h ‹_› (by decide)
  | enable h =>
    rw [show s.h.st = .rxEnable from h]; exact ⟨_, .completed, completed_inflight _ _ _, rfl, rfl⟩

/-- The effect of every step that is no reset. -/
theorem effect_of_step {s t : State} (h : step s = .next t) (hr : ¬ s.isReset) : ∃ v, Effect s v ∧ SameBlock t v := by
  have quiet : (∀ op, ¬ s.accepts op) → (∀ a, ¬ s.takes a) → t.h = s.h → t.bus = s.bus → t.params = s.params →
      ∃ v, Effect s v ∧ SameBlock t v := fun hc ha hh hb hp => ⟨s, .none hc ha, hh, hb, hp⟩
  have noCommand (hw : ∀ w, s.inputs.head? ≠ some (.command w)) (op : Opcode) : ¬ s.accepts op := fun acc =>
    have ⟨w, hw', _⟩ := head_of_accepts acc
    hw w hw'
  have noAnswer (ha : ∀ a, s.inputs.head? ≠ some (.answer a)) (a : Answer) : ¬ s.takes a := fun tk =>
    ha a (head_of_takes tk)
  cases stepped_of_step h with
  | waits hin => exact quiet (noCommand (by simp [hin])) (noAnswer (by simp [hin])) rfl rfl rfl
  | takes hin => exact quiet (noCommand (by simp [hin])) (noAnswer (by simp [hin])) rfl rfl rfl
  | reset hin => exact absurd ⟨_, hin⟩ hr
  | @command w rest _ hin hc =>
    cases hc with
    | illegal hl =>
      refine quiet (fun op acc => hl ?_) (noAnswer (by simp [hin])) rfl rfl rfl
      exact wordOp_of_accepts (by rw [hin, List.head?_cons]) acc ▸ acc.2.1
    | busy _ hst => exact quiet (fun op acc => hst acc.1) (noAnswer (by simp [hin])) rfl rfl rfl
    | register hl h5 hst => exact ⟨_, .registerStart ⟨hst, hl, w, rest, hin, rfl⟩ h5, rfl, rfl, rfl⟩
    | session h5 hst => exact ⟨_, .sessionStart ⟨hst, by decide, w, rest, hin, h5⟩, rfl, rfl, rfl⟩
  | answer hin hi hd ha =>
    obtain ⟨v, hv, hs⟩ := answerEffect_of_responded ha
    exact ⟨v, .answer ⟨hi, _, hin⟩ rfl hv, hs⟩

/-- The effect of a step that takes an answer. -/
theorem answerEffect_of_step {s t : State} {a : Answer} (h : step s = .next t) (ha : s.takes a) :
    ∃ v, AnswerEffect a s s.h.st v ∧ SameBlock t v := by
  obtain ⟨v, hv, hs⟩ := effect_of_step h (not_isReset_of_takes ha)
  cases hv with
  | none _ no => exact absurd ha (no a)
  | registerStart acc _ => exact absurd acc (not_accepts_of_takes ha _)
  | sessionStart acc => exact absurd acc (not_accepts_of_takes ha _)
  | answer tk st ans => exact ⟨v, takes_unique ha tk ▸ st ▸ ans, hs⟩

/-- A step that accepts RX opens a session (R141). -/
theorem sessionStart_of_step {s t : State} (h : step s = .next t) (acc : s.accepts 0x5#4) :
    SameBlock t (startSession s) := by
  obtain ⟨v, hv, hs⟩ := effect_of_step h (not_isReset_of_accepts acc)
  cases hv with
  | none no _ => exact absurd acc (no _)
  | registerStart acc' notRx =>
    obtain ⟨w, hw, hop⟩ := head_of_accepts acc
    exact absurd ((wordOp_of_accepts hw acc').trans hop) notRx
  | sessionStart _ => exact hs
  | answer tk _ _ => exact absurd acc (not_accepts_of_takes tk _)

end Sys2Proof.Machine
end

section
/-! SUPPORT. The block invariants (R36): they hold after a reset and every effect keeps them. -/

namespace Sys2Proof.Machine

theorem inv_reset (d : Nat) : (Handle.reset d).Inv := by
  simp [Handle.Inv, Handle.reset, St.inSession]

/-- The index stays below the length as long as it has not reached it. -/
theorem idx_succ_lt {i n : Byte} (hi : i.toNat < n.toNat) (hne : i + 1#8 ≠ n) : (i + 1#8).toNat < n.toNat := by
  bv_omega

/-- The failure path enters RX_ENABLE with an error and its phase, both set or both kept (R186, R188). -/
theorem inv_failSession {c : Status} {s : State} (hc : c ≠ .ok) (prog : s.h.inProgress = true)
    (hst : s.h.st ≠ .idle) (err : s.h.err = .ok ↔ s.h.errPhase = 0#3) : (failSession c s).h.Inv := by
  by_cases he : s.h.err = .ok
  · simp [Handle.Inv, Handle.recordError_err, Handle.recordError_errPhase, St.inSession, prog, he, hc, hst]
  · simp [Handle.Inv, Handle.recordError_err, Handle.recordError_errPhase, St.inSession, prog, he, ← err]

theorem inv_answerEffect {a : Answer} {s v : State} {x : St} (hi : s.h.Inv) (st : s.h.st = x)
    (hv : AnswerEffect a s x v) : v.h.Inv := by
  obtain ⟨-, hprog, ⟨hdata, htrail⟩, hsent, herr⟩ := hi
  rw [st] at hprog hdata htrail hsent
  have sess (hx : x.inSession = true) : s.h.inProgress = true ∧ (s.h.err = .ok ↔ s.h.errPhase = 0#3) :=
    ⟨hprog.mpr hx, herr (hprog.mpr hx)⟩
  cases hv with
  | registerDone =>
    have closed : s.h.inProgress = false := by simpa [St.inSession] using hprog
    simp [Handle.Inv, St.inSession, closed]
  | failed opened _ _ =>
    have hst : s.h.st ≠ .idle := by rintro h; simp [← st, h, St.inSession] at opened
    exact inv_failSession (by decide) (sess opened).1 hst (sess opened).2
  | tooLong => exact inv_failSession (by decide) (sess rfl).1 (by simp [st]) (sess rfl).2
  | disabled =>
    simp [Handle.Inv, St.inSession, sess rfl, hsent]
  | emptyFrame _ zero => simp [Handle.Inv, St.inSession, sess rfl, zero]
  | drainStart _ pos fits =>
    have h1 : 0 < a.rx.toNat := by bv_omega
    simp [Handle.Inv, St.inSession, sess rfl, fits, h1, Nat.one_le_iff_ne_zero, h1.ne']
  | lastByte =>
    obtain ⟨-, fits, -⟩ := hdata rfl
    simp [Handle.Inv, St.inSession, sess rfl, fits]
  | nextByte _ _ more =>
    obtain ⟨pos, fits, below⟩ := hdata rfl
    simpa [Handle.Inv, St.inSession, sess rfl, st, pos, fits] using idx_succ_lt below more
  | lqRead => simp [Handle.Inv, St.inSession, sess rfl, htrail]
  | ssRead => simp [Handle.Inv, St.inSession, sess rfl]
  | completed => simp [Handle.Inv, St.inSession]

theorem inv_effect {s v : State} (hi : s.h.Inv) (hv : Effect s v) : v.h.Inv := by
  cases hv with
  | none => exact hi
  | registerStart acc _ =>
    have closed : s.h.inProgress = false := by simpa [acc.1, St.inSession] using hi.2.1
    simp [startRegister, Handle.Inv, St.inSession, closed]
  | sessionStart => simp [startSession, Handle.Inv, St.inSession]
  | answer _ st ans => exact inv_answerEffect hi st ans

theorem inv_step {s t : State} (hi : s.h.Inv) (h : step s = .next t) : t.h.Inv := by
  by_cases hr : s.isReset
  · obtain ⟨rest, rfl⟩ := eq_resetBlock_of_isReset h hr
    exact inv_reset _
  · obtain ⟨v, hv, hs⟩ := effect_of_step h hr
    exact hs.h ▸ inv_effect hi hv

/-- Settles O33, by the effects of a step: each keeps the five items of R36. -/
theorem stepKeepsBlockInvariants : Obligations.StepKeepsBlockInvariants :=
  ⟨fun _ => inv_reset 0, fun _ _ => inv_step⟩

end Sys2Proof.Machine
end

section
/-! SUPPORT. The transaction in flight (R29, R30, R140): what the codec encodes, the frame decoder reads back. -/

namespace Sys2Proof.Machine

/-! ## The codec's bytes are bus frames -/

theorem decodeFrame_encodeShortWrite (a : Addr16) (v : Byte) :
    ∃ ad, decodeFrame (encodeShortWrite a v) = .ok (.frameShortWrite ad v) := by
  simp [encodeShortWrite, decodeFrame, decodeWriteTail]

theorem decodeFrame_encodeShortReadHeader (a : Addr16) :
    ∃ ad, decodeFrame [encodeShortReadHeader a] = .ok (.frameShortRead ad) := by
  simp [encodeShortReadHeader, decodeFrame, decodeReadTail]

/-- A mask with a zero low nibble leaves the reserved bits of long header byte 1 zero (R76). -/
theorem lowNibble_and_eq_zero {m : Byte} (hm : m.extractLsb' 0 4 = 0#4) (x : Byte) :
    (x &&& m).extractLsb' 0 4 = 0#4 := by
  rw [BitVec.extractLsb'_and, hm, BitVec.and_zero]

theorem decodeFrame_encodeLongWrite (a : Addr16) (v : Byte) :
    ∃ ad, decodeFrame (encodeLongWrite a v) = .ok (.frameLongWrite ad v) := by
  simp [encodeLongWrite, decodeFrame, decodeLongTail, decodeWriteTail, lowNibble_and_eq_zero]

theorem decodeFrame_encodeLongReadHeader (a : Addr16) :
    ∃ ad, decodeFrame (encodeLongReadHeader a) = .ok (.frameLongRead ad) := by
  simp [encodeLongReadHeader, decodeFrame, decodeLongTail, decodeReadTail, lowNibble_and_eq_zero]

/-- The transaction transmits and receives what the bus frame `i` does (R72). -/
def Transaction.isFrameOf (x : Transaction) (i : Instr) : Prop :=
  i.isFrame = true ∧ decodeFrame x.bytes = .ok i ∧ x.rxn = i.receiveCount

/-- The opcode of the register command that writes in a scheme (R122, R124). -/
def writeOp : Scheme → Opcode
  | .short => 0x1#4
  | .long => 0x3#4

/-- The opcode of the register command that reads in a scheme (R123, R125). -/
def readOp : Scheme → Opcode
  | .short => 0x2#4
  | .long => 0x4#4

theorem memWrite_isFrameOf (sc : Scheme) (a : Addr16) (v : Byte) :
    ∃ i, (memWrite sc a v).isFrameOf i ∧ i.op = writeOp sc := by
  cases sc with
  | short => obtain ⟨ad, h⟩ := decodeFrame_encodeShortWrite a v; exact ⟨_, ⟨rfl, h, rfl⟩, rfl⟩
  | long => obtain ⟨ad, h⟩ := decodeFrame_encodeLongWrite a v; exact ⟨_, ⟨rfl, h, rfl⟩, rfl⟩

theorem memRead_isFrameOf (sc : Scheme) (a : Addr16) :
    ∃ i, (memRead sc a).isFrameOf i ∧ i.op = readOp sc := by
  cases sc with
  | short => obtain ⟨ad, h⟩ := decodeFrame_encodeShortReadHeader a; exact ⟨_, ⟨rfl, h, rfl⟩, rfl⟩
  | long => obtain ⟨ad, h⟩ := decodeFrame_encodeLongReadHeader a; exact ⟨_, ⟨rfl, h, rfl⟩, rfl⟩

/-- The transaction of a register command is a bus frame of that command (R122 to R125). -/
theorem registerTransaction_isFrameOf {w : CommandWord} (hl : legalOp (wordOp w)) (h5 : wordOp w ≠ 0x5#4) :
    ∃ i, (registerTransaction w).isFrameOf i ∧ i.op = wordOp w := by
  obtain h | h | h | h | h := hl
  · simpa [registerTransaction, h, writeOp] using memWrite_isFrameOf .short (wordAddr w) (wordValue w)
  · simpa [registerTransaction, h, readOp] using memRead_isFrameOf .short (wordAddr w)
  · simpa [registerTransaction, h, writeOp] using memWrite_isFrameOf .long (wordAddr w) (wordValue w)
  · simpa [registerTransaction, h, readOp] using memRead_isFrameOf .long (wordAddr w)
  · exact absurd h h5

/-- The fields that describe a transaction carry its frame. -/
theorem carries_of_transaction {h : Handle} {i : Instr} (hx : h.transaction.isFrameOf i) : h.carries i := hx

/-- Every transaction of a session is a bus frame: the sequencer only writes the baseband-control register and reads the
FIFO (R142, R158). -/
theorem sessionTransaction_isFrameOf {s : State} {x : Transaction} (hx : s.sessionTransaction = some x) :
    ∃ i, x.isFrameOf i := by
  have frame_of_write (v : Byte) : ∃ i, (bbWrite s.params v).isFrameOf i :=
    (memWrite_isFrameOf _ _ v).imp fun _ => And.left
  have frame_of_read (ad : Addr16) : ∃ i, (fifoRead ad).isFrameOf i :=
    (memRead_isFrameOf _ ad).imp fun _ => And.left
  unfold State.sessionTransaction at hx
  split at hx
  case h_1 | h_2 => simp at hx
  case h_3 | h_8 => exact Option.some.inj hx ▸ frame_of_write _
  all_goals exact Option.some.inj hx ▸ frame_of_read _

/-! ## What is in flight is the state's transaction -/

theorem transactionInv_congr {t v : State} (hs : SameBlock t v) (hv : v.TransactionInv) : t.TransactionInv := by
  unfold State.TransactionInv State.sessionTransaction at *
  rwa [hs.h, hs.params]

/-- IDLE has nothing in flight. -/
theorem transactionInv_of_idle {s : State} (st : s.h.st = .idle) : s.TransactionInv := by
  simp [State.TransactionInv, st, St.inSession]

/-- Entering a session state with its transaction issued (R140). -/
theorem transactionInv_issue {s : State} {x : Transaction} (opened : s.h.st.inSession = true) (op : s.h.pendOp = 0x5#4)
    (hx : s.sessionTransaction = some x) (hlen : x.bytes.length ≤ 3) : (issue x s).TransactionInv := by
  refine ⟨fun _ => ⟨op, ?_⟩, fun hb => ?_⟩
  · rw [transaction_issue x s hlen]; exact hx.symm
  · simp [show s.h.st = .regBusy from hb, St.inSession] at opened

theorem transactionInv_toEnable {s : State} (op : s.h.pendOp = 0x5#4) : (toEnable s).TransactionInv :=
  transactionInv_issue rfl op rfl (bbWrite_length_le _ _)

theorem transactionInv_answerEffect {a : Answer} {s v : State} {x : St} (ht : s.TransactionInv) (st : s.h.st = x)
    (hv : AnswerEffect a s x v) : v.TransactionInv := by
  have owed (hx : x.inSession = true) : s.h.pendOp = 0x5#4 := (ht.1 (st ▸ hx)).1
  have read (ad : Addr16) : (fifoRead ad).bytes.length ≤ 3 := fifoRead_length_le ad
  cases hv with
  | registerDone => exact transactionInv_of_idle rfl
  | failed opened _ _ => exact transactionInv_toEnable (by simp [owed opened])
  | tooLong => exact transactionInv_toEnable (by simp [owed rfl])
  | disabled => exact transactionInv_issue rfl (owed rfl) rfl (read _)
  | emptyFrame _ zero => exact transactionInv_issue rfl (owed rfl) (by simp [State.sessionTransaction, zero]) (read _)
  | drainStart => exact transactionInv_issue rfl (owed rfl) rfl (read _)
  | lastByte => exact transactionInv_issue rfl (owed rfl) rfl (read _)
  | nextByte =>
    exact transactionInv_issue (by simp [st, St.inSession]) (owed rfl) (by simp [State.sessionTransaction, st]) (read _)
  | lqRead => exact transactionInv_issue rfl (owed rfl) rfl (read _)
  | ssRead => exact transactionInv_toEnable (owed rfl)
  | completed => exact transactionInv_of_idle rfl

/-- An accepted register command puts its own bus frame in flight (R121). -/
theorem transactionInv_startRegister {s : State} {w : CommandWord} (hl : legalOp (wordOp w)) (h5 : wordOp w ≠ 0x5#4) :
    (startRegister (wordOp w) (registerTransaction w) s).TransactionInv := by
  refine ⟨fun opened => by simp [startRegister, St.inSession] at opened, fun _ => ?_⟩
  obtain ⟨i, hi, op⟩ := registerTransaction_isFrameOf hl h5
  refine ⟨i, carries_of_transaction ?_, op.symm⟩
  rwa [startRegister, transaction_issue _ _ (registerTransaction_length_le w)]

theorem transactionInv_effect {s v : State} (ht : s.TransactionInv) (hv : Effect s v) : v.TransactionInv := by
  cases hv with
  | none => exact ht
  | registerStart acc notRx => exact transactionInv_startRegister acc.2.1 notRx
  | sessionStart => exact transactionInv_issue rfl rfl rfl (bbWrite_length_le _ _)
  | answer _ st ans => exact transactionInv_answerEffect ht st ans

theorem transactionInv_step {s t : State} (ht : s.TransactionInv) (h : step s = .next t) : t.TransactionInv := by
  by_cases hr : s.isReset
  · obtain ⟨rest, rfl⟩ := eq_resetBlock_of_isReset h hr
    exact transactionInv_of_idle rfl
  · obtain ⟨v, hv, hs⟩ := effect_of_step h hr
    exact transactionInv_congr hs (transactionInv_effect ht hv)

/-- Settles O35, by the effects of a step: an issue puts the transaction of the state it enters in flight. -/
theorem stepKeepsTransactionInvariant : Obligations.StepKeepsTransactionInvariant :=
  fun _ _ hi => transactionInv_step hi.2.2

/-! ## The machine does not stop -/

/-- In a busy state of the invariant the bytes in flight are a bus frame (R76). -/
theorem decodeFrame_txBytes_ok {s : State} (ht : s.TransactionInv) (hst : s.h.st ≠ .idle) :
    ∃ i, decodeFrame s.h.txBytes = .ok i := by
  by_cases hb : s.h.st = .regBusy
  · obtain ⟨i, hc, -⟩ := ht.2 hb
    exact ⟨i, hc.2.1⟩
  · have opened : s.h.st.inSession = true := by cases hx : s.h.st <;> simp_all [St.inSession]
    obtain ⟨i, hf⟩ := sessionTransaction_isFrameOf (ht.1 opened).2.symm
    exact ⟨i, hf.2.1⟩

/-- Settles O36: a busy block has a frame in flight and, in the drain, room for its byte, so its answer has a response
rule that ends in a next state. -/
theorem invariantStatesNeverStop : Obligations.InvariantStatesNeverStop := by
  rintro s ⟨⟨hfly, -, ⟨hdata, -⟩, -, -⟩, -, ht⟩ hstray
  match hin : s.inputs with
  | [] => exact ⟨_, step_of_no_input hin⟩
  | .command w :: rest =>
    obtain ⟨t, he, -⟩ := exec_decodeCommand w { s with inputs := rest }
    exact ⟨t, (step_of_command hin).trans he⟩
  | .takeResponse :: rest => exact ⟨_, step_of_take hin⟩
  | .reset :: rest => exact ⟨_, step_of_reset hin⟩
  | .answer a :: rest =>
    have fly : s.h.inflight = true := by
      by_contra hno
      exact hstray ⟨by simpa using hno, a, rest, hin⟩
    have hst : s.h.st ≠ .idle := hfly.mp fly
    obtain ⟨i, hd⟩ := decodeFrame_txBytes_ok ht hst
    obtain ⟨sp, ad, k, he⟩ := exec_frame_answer (s := { s with inputs := rest, answer := some a })
      (isFrame_of_decodeFrame hd) rfl fly
    have room : s.h.st = .rxData → s.h.idx.toNat < 127 := fun hx => by have := hdata hx; omega
    obtain ⟨t, hr⟩ := responseRule_next (a := a)
      (s := finishTransaction sp ad k a { s with inputs := rest, answer := some a }) hst room
    exact ⟨t, (step_of_answer hin fly hd).trans (he.trans hr)⟩

end Sys2Proof.Machine
end

section
/-! SUPPORT. The drain index and the error flags (R21, R31, R146, R156, R188): their bounds hold after a reset and
every effect keeps them. -/

namespace Sys2Proof.Machine

/-- Recording an error of a session keeps the flags within the errors of a session (R31). -/
theorem sessionError_ite {p : Prop} [Decidable p] {new old : Status} (hnew : new = .busError ∨ new = .length)
    (hold : old = .ok ∨ old = .busError ∨ old = .length) :
    (if p then new else old) = .ok ∨ (if p then new else old) = .busError ∨ (if p then new else old) = .length := by
  split
  · exact .inr hnew
  · exact hold

/-- RX_ENABLE bounds only the index and the error. -/
theorem drainInv_failSession {c : Status} {s : State} (hidx : s.h.idx.toNat ≤ 127) (hc : c = .busError ∨ c = .length)
    (herr : s.h.err = .ok ∨ s.h.err = .busError ∨ s.h.err = .length) : (failSession c s).h.DrainInv := by
  have range := sessionError_ite (p := s.h.err = .ok) hc herr
  rw [← Handle.recordError_err] at range
  simpa [Handle.DrainInv, hidx] using range

theorem drainInv_answerEffect {a : Answer} {s v : State} {x : St} (hi : s.h.Inv) (hd : s.h.DrainInv) (st : s.h.st = x)
    (hv : AnswerEffect a s x v) : v.h.DrainInv := by
  obtain ⟨-, -, ⟨hdata, -⟩, -, -⟩ := hi
  obtain ⟨hidx, hbefore, hafter, hrange, hclean⟩ := hd
  rw [st] at hdata hbefore hafter hclean
  cases hv with
  | registerDone => simp [Handle.DrainInv, hidx, hrange]
  | failed => exact drainInv_failSession hidx (.inl rfl) hrange
  | tooLong => exact drainInv_failSession hidx (.inr rfl) hrange
  | disabled => simp [Handle.DrainInv, hbefore, hclean]
  | emptyFrame _ zero => simp [Handle.DrainInv, hbefore, hclean, zero]
  | drainStart => simp [Handle.DrainInv, hclean]
  | lastByte _ _ last =>
    have fits := (hdata rfl).2.1
    simp [Handle.DrainInv, hclean, last, fits]
  | nextByte _ _ more =>
    obtain ⟨-, fits, below⟩ := hdata rfl
    have below' := idx_succ_lt below more
    have room : (s.h.idx + 1#8).toNat ≤ 127 := by omega
    simpa [Handle.DrainInv, st, hclean] using room
  | lqRead =>
    have drained := hafter (.inl rfl)
    simpa [Handle.DrainInv, drained, hclean] using drained ▸ hidx
  | ssRead => simp [Handle.DrainInv, hidx, hrange]
  | completed =>
    have range := sessionError_ite (p := a.ok = false ∧ s.h.err = .ok) (.inl rfl) hrange
    rw [← Handle.completed_err] at range
    simpa [Handle.DrainInv, hidx] using range

theorem drainInv_effect {s v : State} (hi : s.h.Inv) (hd : s.h.DrainInv) (hv : Effect s v) : v.h.DrainInv := by
  cases hv with
  | none => exact hd
  | registerStart =>
    obtain ⟨hidx, -, -, hrange, -⟩ := hd
    simp [startRegister, Handle.DrainInv, hidx, hrange]
  | sessionStart => simp [startSession, Handle.DrainInv]
  | answer _ st ans => exact drainInv_answerEffect hi hd st ans

theorem drainInv_reset (d : Nat) : (Handle.reset d).DrainInv := by
  simp [Handle.DrainInv, Handle.reset]

theorem drainInv_step {s t : State} (hi : s.h.Inv) (hd : s.h.DrainInv) (h : step s = .next t) : t.h.DrainInv := by
  by_cases hr : s.isReset
  · obtain ⟨rest, rfl⟩ := eq_resetBlock_of_isReset h hr
    exact drainInv_reset _
  · obtain ⟨v, hv, hs⟩ := effect_of_step h hr
    exact hs.h ▸ drainInv_effect hi hd hv

/-- Settles O34, by the effects of a step. -/
theorem stepKeepsDrainInvariants : Obligations.StepKeepsDrainInvariants :=
  fun _ _ => drainInv_step

end Sys2Proof.Machine
end

section
/-! SUPPORT. Reset (R40, R210, R211), the configuration (R38), and the frames that wait or stop (R142, R157). -/

namespace Sys2Proof.Machine

/-- Settles O14: the base case of the three invariants. -/
theorem resetSatisfiesInvariants : Obligations.ResetSatisfiesInvariants :=
  fun _ => ⟨inv_reset 0, drainInv_reset 0, transactionInv_of_idle rfl⟩

/-- Settles O13: the values are those of `Handle.reset`, and with no event the step waits. -/
theorem resetValues : Obligations.ResetValues :=
  fun _ => ⟨rfl, rfl, rfl, rfl, rfl, rfl, rfl, rfl, rfl, rfl, rfl, step_of_no_input rfl, Config.params, rfl⟩

/-- Settles O15: the step of a reset event is `resetBlock`. -/
theorem resetAbandonsOperation : Obligations.ResetAbandonsOperation :=
  fun _ _ hin => ⟨_, step_of_reset hin, rfl, rfl, rfl, rfl, rfl, rfl, rfl, rfl, rfl, rfl, rfl, rfl, rfl⟩

theorem params_effect {s v : State} (hv : Effect s v) : v.params = s.params := by
  cases hv with
  | none | registerStart | sessionStart => rfl
  | answer _ _ ans => cases ans <;> rfl

/-- Settles O37: no effect and no reset writes the configuration. -/
theorem parametersAreNeverWritten : Obligations.ParametersAreNeverWritten := by
  intro s t h
  by_cases hr : s.isReset
  · obtain ⟨rest, rfl⟩ := eq_resetBlock_of_isReset h hr
    rfl
  · obtain ⟨v, hv, hs⟩ := effect_of_step h hr
    exact hs.params.trans (params_effect hv)

/-- Settles O24: without an answer the frame waits; with one, the transaction's flag, IDLE and the index decide. -/
theorem framesWaitOrStop : Obligations.FramesWaitOrStop := by
  intro i s a hf
  refine ⟨exec_frame_waits hf, exec_frame_stray hf, ?idle, ?overflow⟩
  case idle =>
    intro ha fly st
    rw [exec_frame_eq hf ha fly]
    simp [responseRule, st]
  case overflow =>
    intro ha fly st ok past
    rw [exec_frame_eq hf ha fly, responseRule_rxData (by exact st)]
    simp [rxDataAnswer, ok, Config.frameBufSize, Nat.not_lt.mpr past]

end Sys2Proof.Machine
end

section
/-! SUPPORT. The writers of each field (R33): if the effect of a step changes the field, the step is one that may. -/

namespace Sys2Proof.Machine

variable {s v : State}

/-- A step that neither accepts a command nor takes an answer leaves the block alone. -/
theorem eq_or_event_of_effect (hv : Effect s v) : v = s ∨ (∃ op, s.accepts op) ∨ ∃ a, s.takes a := by
  cases hv with
  | none => exact .inl rfl
  | registerStart acc => exact .inr (.inl ⟨_, acc⟩)
  | sessionStart acc => exact .inr (.inl ⟨_, acc⟩)
  | answer tk => exact .inr (.inr ⟨_, tk⟩)

theorem writer_of_idx_ne (hv : Effect s v) (hne : v.h.idx ≠ s.h.idx) :
    s.accepts 0x5#4 ∨ s.answeredIn .rxLen ∨ s.answeredIn .rxData := by
  cases hv with
  | none | registerStart => exact absurd rfl hne
  | sessionStart acc => exact .inl acc
  | answer tk st ans =>
    cases ans with
    | drainStart => exact .inr (.inl ⟨st, _, tk⟩)
    | lastByte | nextByte => exact .inr (.inr ⟨st, _, tk⟩)
    | _ => simp at hne

theorem writer_of_inProgress_ne (hv : Effect s v) (hne : v.h.inProgress ≠ s.h.inProgress) :
    s.accepts 0x5#4 ∨ s.answeredIn .rxEnable := by
  cases hv with
  | none | registerStart => exact absurd rfl hne
  | sessionStart acc => exact .inl acc
  | answer tk st ans =>
    cases ans with
    | completed => exact .inr ⟨st, _, tk⟩
    | _ => simp at hne

theorem writer_of_frameLength_ne (hv : Effect s v) (hne : v.h.frameLength ≠ s.h.frameLength) :
    s.accepts 0x5#4 ∨ ∃ a, s.takes a ∧ s.h.st = .rxLen ∧ a.ok = true := by
  cases hv with
  | none | registerStart => exact absurd rfl hne
  | sessionStart acc => exact .inl acc
  | answer tk st ans =>
    cases ans with
    | tooLong ok | emptyFrame ok | drainStart ok => exact .inr ⟨_, tk, st, ok⟩
    | _ => simp at hne

theorem writer_of_frameBuffer_ne (hv : Effect s v) (hne : v.h.frameBuffer ≠ s.h.frameBuffer) :
    ∃ a, s.takes a ∧ s.h.st = .rxData ∧ a.ok = true ∧
      v.h.frameBuffer = s.h.frameBuffer.setIfInBounds s.h.idx.toNat a.rx := by
  cases hv with
  | none | registerStart | sessionStart => exact absurd rfl hne
  | answer tk st ans =>
    cases ans with
    | lastByte ok | nextByte ok => exact ⟨_, tk, st, ok, rfl⟩
    | _ => simp at hne

theorem writer_of_linkQuality_ne (hv : Effect s v) (hne : v.h.linkQuality ≠ s.h.linkQuality) :
    ∃ a, s.takes a ∧ s.h.st = .rxLq ∧ a.ok = true := by
  cases hv with
  | none | registerStart | sessionStart => exact absurd rfl hne
  | answer tk st ans =>
    cases ans with
    | lqRead ok => exact ⟨_, tk, st, ok⟩
    | _ => simp at hne

theorem writer_of_signalStrength_ne (hv : Effect s v) (hne : v.h.signalStrength ≠ s.h.signalStrength) :
    ∃ a, s.takes a ∧ s.h.st = .rxSs ∧ a.ok = true := by
  cases hv with
  | none | registerStart | sessionStart => exact absurd rfl hne
  | answer tk st ans =>
    cases ans with
    | ssRead ok => exact ⟨_, tk, st, ok⟩
    | _ => simp at hne

theorem writer_of_pendOp_ne (hv : Effect s v) (hne : v.h.pendOp ≠ s.h.pendOp) : ∃ op, s.accepts op := by
  cases hv with
  | none => exact absurd rfl hne
  | registerStart acc | sessionStart acc => exact ⟨_, acc⟩
  | answer tk st ans => cases ans <;> simp at hne

/-- The error flags: cleared at a session's start, and written by its first failing step (R31). -/
theorem writer_of_error_ne (hv : Effect s v) (hne : v.h.err ≠ s.h.err ∨ v.h.errPhase ≠ s.h.errPhase) :
    s.accepts 0x5#4 ∨ s.h.err = .ok ∧ ∃ a, s.takes a ∧ s.h.st.inSession = true ∧
      (a.ok = false ∨ s.h.st = .rxLen ∧ 127 < a.rx.toNat) := by
  cases hv with
  | none | registerStart => simp [startRegister] at hne
  | sessionStart acc => exact .inl acc
  | @answer a _ _ tk st ans =>
    refine .inr ?_
    cases ans with
    | failed opened _ ok =>
      refine ⟨?_, _, tk, st ▸ opened, .inl ok⟩
      by_contra he
      simp [Handle.recordError, he] at hne
    | tooLong ok long =>
      refine ⟨?_, _, tk, by simp [st, St.inSession], .inr ⟨st, long⟩⟩
      by_contra he
      simp [Handle.recordError, he] at hne
    | completed =>
      have first : a.ok = false ∧ s.h.err = .ok := by
        by_contra no
        simp only [Handle.completed_err, Handle.completed_errPhase, if_neg no] at hne
        simp at hne
      exact ⟨first.2, _, tk, by simp [st, St.inSession], .inl first.1⟩
    | _ => simp at hne

theorem writer_of_result_ne (hv : Effect s v)
    (hne : v.h.rxCode ≠ s.h.rxCode ∨ v.h.rxErrPhase ≠ s.h.rxErrPhase ∨ v.h.rxEnableOk ≠ s.h.rxEnableOk) :
    s.answeredIn .rxEnable := by
  cases hv with
  | none | registerStart | sessionStart => simp [startRegister, startSession] at hne
  | answer tk st ans =>
    cases ans with
    | completed => exact ⟨st, _, tk⟩
    | _ => simp at hne

/-- Transactions (R26): a step either issues one, which is then in flight, or leaves the transaction fields and only an
answer ends the transaction. -/
theorem issue_or_keep_of_effect (hv : Effect s v) :
    ((∃ x, v.bus = s.bus ++ [x]) ∧ v.h.inflight = true ∧ ((∃ op, s.accepts op) ∨ ∃ a, s.takes a)) ∨
    (v.bus = s.bus ∧ v.h.txbuf = s.h.txbuf ∧ v.h.txlen = s.h.txlen ∧ v.h.rxn = s.h.rxn ∧
      (v.h.inflight = s.h.inflight ∧ (∀ a, ¬ s.takes a) ∨ v.h.inflight = false ∧ ∃ a, s.takes a)) := by
  cases hv with
  | none _ no => exact .inr ⟨rfl, rfl, rfl, rfl, .inl ⟨rfl, no⟩⟩
  | registerStart acc | sessionStart acc => exact .inl ⟨⟨_, rfl⟩, rfl, .inl ⟨_, acc⟩⟩
  | answer tk st ans =>
    cases ans with
    | registerDone => exact .inr ⟨rfl, rfl, rfl, rfl, .inr ⟨rfl, _, tk⟩⟩
    | completed => exact .inr ⟨rfl, by simp, by simp, by simp, .inr ⟨rfl, _, tk⟩⟩
    | _ => exact .inl ⟨⟨_, rfl⟩, rfl, .inr ⟨_, tk⟩⟩

end Sys2Proof.Machine
end

section
/-! SUPPORT. Each field as every step writes it (R24 to R33), and the source's states (R23). -/

namespace Sys2Proof.Machine

/-- Settles O40: each clause is the field's writer lemma. -/
theorem fieldsHaveOnlyTheirWriters : Obligations.FieldsHaveOnlyTheirWriters := by
  rintro s t - h hr
  obtain ⟨v, hv, hs⟩ := effect_of_step h hr
  rw [hs.h, hs.bus]
  have answered {x : St} {p : Answer → Prop} : (∃ a, s.takes a ∧ s.h.st = x ∧ p a) → s.answeredIn x :=
    fun ⟨a, tk, st, _⟩ => ⟨st, a, tk⟩
  refine ⟨fun hne => ?st, writer_of_idx_ne hv, writer_of_inProgress_ne hv,
    fun hne => (writer_of_frameLength_ne hv hne).imp_right answered,
    fun hne => answered (writer_of_frameBuffer_ne hv hne), fun hne => answered (writer_of_linkQuality_ne hv hne),
    fun hne => answered (writer_of_signalStrength_ne hv hne), fun hne => ?tx, fun hne => ?inflight,
    writer_of_pendOp_ne hv, fun hne => ?err, writer_of_result_ne hv⟩
  case st => exact (eq_or_event_of_effect hv).resolve_left fun e => hne (by rw [e])
  case tx =>
    obtain ⟨⟨x, hx⟩, -⟩ | ⟨-, h1, h2, h3, -⟩ := issue_or_keep_of_effect hv
    · simp [hx]
    · simp [h1, h2, h3] at hne
  case inflight =>
    obtain ⟨⟨x, hx⟩, -⟩ | ⟨-, -, -, -, ⟨hk, -⟩ | ⟨-, tk⟩⟩ := issue_or_keep_of_effect hv
    · simp [hx]
    · exact absurd hk hne
    · exact .inr tk
  case err =>
    obtain acc | ⟨-, a, tk, opened, -⟩ := writer_of_error_ne hv hne
    · exact .inl acc
    · have here : s.answeredIn s.h.st := ⟨rfl, a, tk⟩
      cases st : s.h.st <;> simp_all [St.inSession]

/-- Settles O38: a step issues one transaction and leaves it in flight, or keeps the transaction fields. -/
theorem singleTransactionInFlight : Obligations.SingleTransactionInFlight := by
  intro s t hi h hr
  obtain ⟨v, hv, hs⟩ := effect_of_step h hr
  rw [hs.h, hs.bus]
  obtain ⟨⟨x, hx⟩, fly, cause⟩ | ⟨hb, h1, h2, h3, hfly⟩ := issue_or_keep_of_effect hv
  · have moved : v.bus ≠ s.bus := by simp [hx]
    have both : v.h.inflight = true ↔ v.bus ≠ s.bus := iff_of_true fly moved
    refine ⟨.inr ⟨x, hx⟩, fun _ => both, fun _ _ => both, fun hb => absurd hb moved, ?_⟩
    intro busy noAnswer
    obtain ⟨op, acc⟩ | ⟨a, tk⟩ := cause
    · exact absurd acc.1 (hi.1.mp busy)
    · exact absurd tk (noAnswer a)
  · refine ⟨.inl hb, fun idle => ?_, fun a tk => ?_, fun _ => ⟨h1, h2, h3⟩,
      fun busy noAnswer => ⟨hb, ?_, h1, h2, h3⟩⟩
    · obtain ⟨keep, -⟩ | ⟨ended, -⟩ := hfly
      · simp [keep, idle, hb]
      · simp [ended, hb]
    · obtain ⟨-, no⟩ | ⟨ended, -⟩ := hfly
      · exact absurd tk (no a)
      · simp [ended, hb]
    · obtain ⟨keep, -⟩ | ⟨-, a, tk⟩ := hfly
      · rw [keep, busy]
      · exact absurd tk (noAnswer a)

/-- Settles O42: each branch of the length answer stores the byte, and only those and a session's start write the
field. -/
theorem frameLengthWrites : Obligations.FrameLengthWrites := by
  intro s t h hr
  refine ⟨fun acc => ?start, fun a tk st ok => ?read, fun noStart noRead => ?keep⟩
  case start => rw [(sessionStart_of_step h acc).h]; rfl
  case read =>
    obtain ⟨v, hv, hs⟩ := answerEffect_of_step h tk
    rw [hs.h]
    rw [st] at hv
    cases hv with
    | failed _ _ bad => simp [ok] at bad
    | tooLong => simp
    | emptyFrame | drainStart => rfl
  case keep =>
    obtain ⟨v, hv, hs⟩ := effect_of_step h hr
    rw [hs.h]
    by_contra hne
    obtain acc | ⟨a, tk, st, ok⟩ := writer_of_frameLength_ne hv hne
    · exact noStart acc
    · simp [noRead a tk st] at ok

/-- Settles O43: the data byte's store writes the one place of the index, below the length by R36. -/
theorem frameBufferWrites : Obligations.FrameBufferWrites := by
  rintro s t ⟨-, -, ⟨hdata, -⟩, -, -⟩ h hr j hj hne
  obtain ⟨v, hv, hs⟩ := effect_of_step h hr
  simp only [hs.h] at hne ⊢
  obtain ⟨a, tk, st, ok, store⟩ := writer_of_frameBuffer_ne hv (fun e => hne (by simp only [e]))
  simp only [store] at hne ⊢
  have here : s.h.idx.toNat = j := by
    by_contra other
    exact hne (Vector.getElem_setIfInBounds_ne hj other)
  exact ⟨a, tk, st, ok, here.symm, here ▸ (hdata st).2.2, by simp [here]⟩

/-- Settles O44: each quality byte's own successful read writes it, and nothing else does. -/
theorem qualityByteWrites : Obligations.QualityByteWrites := by
  intro s t h hr
  refine ⟨fun a tk st ok => ?lq, fun noRead => ?lqKeep, fun a tk st ok => ?ss, fun noRead => ?ssKeep⟩
  case lq =>
    obtain ⟨v, hv, hs⟩ := answerEffect_of_step h tk
    rw [hs.h]
    rw [st] at hv
    cases hv with
    | failed _ _ bad => simp [ok] at bad
    | lqRead => rfl
  case ss =>
    obtain ⟨v, hv, hs⟩ := answerEffect_of_step h tk
    rw [hs.h]
    rw [st] at hv
    cases hv with
    | failed _ _ bad => simp [ok] at bad
    | ssRead => rfl
  all_goals
    obtain ⟨v, hv, hs⟩ := effect_of_step h hr
    rw [hs.h]
    by_contra hne
  case lqKeep =>
    obtain ⟨a, tk, st, ok⟩ := writer_of_linkQuality_ne hv hne
    simp [noRead a tk st] at ok
  case ssKeep =>
    obtain ⟨a, tk, st, ok⟩ := writer_of_signalStrength_ne hv hne
    simp [noRead a tk st] at ok

/-- In RX_ENABLE an answer of either outcome completes the session (R150). -/
theorem completed_of_step {s t : State} {a : Answer} (h : step s = .next t) (tk : s.takes a)
    (st : s.h.st = .rxEnable) : t.h = { s.h.completed a.ok with inflight := false } := by
  obtain ⟨v, hv, hs⟩ := answerEffect_of_step h tk
  rw [st] at hv
  rw [hs.h]
  cases hv with
  | failed _ notLast _ => exact absurd rfl notLast
  | completed => rfl

/-- Settles O46: the completion copies the error flags into the result fields, and nothing else writes these. -/
theorem resultFieldsAtCompletion : Obligations.ResultFieldsAtCompletion := by
  intro s t h hr
  refine ⟨fun a tk st => ?complete, fun notDone => ?keep⟩
  case complete => rw [completed_of_step h tk st]; exact ⟨rfl, rfl, rfl⟩
  case keep =>
    obtain ⟨v, hv, hs⟩ := effect_of_step h hr
    rw [hs.h]
    by_contra hne
    exact notDone (writer_of_result_ne hv (by simpa only [not_and_or] using hne))

/-- Settles O45: the failure path and the completion record an error only where there is none. -/
theorem firstErrorWins : Obligations.FirstErrorWins := by
  intro s t hi h hr
  obtain ⟨v, hv, hs⟩ := effect_of_step h hr
  have hprog : s.h.inProgress = true ↔ s.h.st.inSession = true := hi.2.1
  refine ⟨fun acc => ?start, fun opened he => ?kept, fun opened he a tk bad => ?busError,
    fun he st a tk ok long => ?length, fun hne => ?writer⟩
  case start => rw [(sessionStart_of_step h acc).h]; exact ⟨rfl, rfl⟩
  case kept =>
    rw [hs.h]
    by_contra hne
    obtain acc | ⟨clean, -⟩ := writer_of_error_ne hv (by simpa only [not_and_or] using hne)
    · simp [hprog, acc.1, St.inSession] at opened
    · exact he clean
  case busError =>
    obtain ⟨v, hv, hs⟩ := answerEffect_of_step h tk
    rw [hs.h]
    rw [hprog] at opened
    generalize hx : s.h.st = x at hv opened ⊢
    cases hv with
    | failed => simp [Handle.recordError_err, Handle.recordError_errPhase, he, hx]
    | completed => simp [Handle.completed_err, Handle.completed_errPhase, he, hx, bad]
    | registerDone => simp [St.inSession] at opened
    | disabled ok | tooLong ok | emptyFrame ok | drainStart ok | lastByte ok | nextByte ok | lqRead ok | ssRead ok =>
      simp [bad] at ok
  case length =>
    obtain ⟨v, hv, hs⟩ := answerEffect_of_step h tk
    rw [hs.h]
    rw [st] at hv
    cases hv with
    | failed _ _ bad => simp [ok] at bad
    | tooLong => simp [Handle.recordError_err, Handle.recordError_errPhase, he, st, St.code]
    | emptyFrame _ zero => simp [zero] at long
    | drainStart _ _ fits => omega
  case writer =>
    rw [hs.h] at hne
    exact (writer_of_error_ne hv hne).imp_right fun ⟨_, a, tk, opened, cause⟩ => ⟨a, tk, hprog.mpr opened, cause⟩

/-- Settles O50, by the effects of a step. -/
theorem sequencerRefinesSourceStates : Obligations.SequencerRefinesSourceStates := by
  intro s t h hr
  obtain ⟨v, hv, hs⟩ := effect_of_step h hr
  rw [hs.h]
  cases hv with
  | none => exact .inl rfl
  | registerStart acc notRx =>
    have st := acc.1
    exact .inr (.inr (.inr (.inr (.inr (.inr (.inl ⟨by rw [st]; rfl, rfl, _, notRx, acc⟩))))))
  | sessionStart acc =>
    have st := acc.1
    exact .inr (.inl ⟨by rw [st]; rfl, rfl, acc⟩)
  | @answer a x _ tk st ans =>
    rw [st]
    cases ans with
    | disabled | lastByte | lqRead => exact .inl rfl
    | nextByte => exact .inl (congrArg St.source st)
    | registerDone =>
      have done : s.answeredIn .regBusy := ⟨st, a, tk⟩
      simp [St.source, done]
    | completed =>
      have done : s.answeredIn .rxEnable := ⟨st, a, tk⟩
      simp [St.source, done]
    | emptyFrame ok zero =>
      have read : ∃ a, s.takes a ∧ a.ok = true ∧ a.rx.toNat ≤ 127 := ⟨a, tk, ok, by simp [zero]⟩
      simpa [St.source] using read
    | drainStart ok _ fits =>
      have read : ∃ a, s.takes a ∧ a.ok = true ∧ a.rx.toNat ≤ 127 := ⟨a, tk, ok, fits⟩
      simpa [St.source] using read
    | tooLong _ long =>
      have read : ∃ a, s.takes a ∧ (a.ok = false ∨ 127 < a.rx.toNat) := ⟨a, tk, .inr long⟩
      simpa [St.source] using read
    | ssRead =>
      have read : ∃ a, s.takes a := ⟨a, tk⟩
      simpa [St.source] using read
    | failed opened notLast bad =>
      have bad' (p : Answer → Prop) : ∃ a, s.takes a ∧ (a.ok = false ∨ p a) := ⟨a, tk, .inl bad⟩
      cases x with
      | idle | regBusy => simp [St.inSession] at opened
      | rxEnable => exact absurd rfl notLast
      | rxDisable | rxLen => exact .inr (.inr (.inr (.inl ⟨rfl, rfl, bad' _⟩)))
      | rxData | rxLq | rxSs => exact .inr (.inr (.inr (.inr (.inl ⟨rfl, rfl, bad' _⟩))))

end Sys2Proof.Machine
end

section
/-! SUPPORT. No step reads `h.in_progress` (R24): with another value in it, a step does the same to everything else. -/

namespace Sys2Proof.Machine

/-- The state with another value of `h.in_progress`. -/
def State.withProgress (s : State) (b : Bool) : State := { s with h := { s.h with inProgress := b } }

theorem failSession_withProgress (b : Bool) (c : Status) (s : State) :
    failSession c (s.withProgress b) = (failSession c s).withProgress b := by
  unfold failSession toEnable issue State.withProgress Handle.recordError
  split <;> simp_all

/-- A completion writes `h.in_progress`, whatever it was (R150). -/
theorem completeSession_withProgress (b : Bool) (a : Answer) (s : State) :
    completeSession a (s.withProgress b) = completeSession a s := by
  unfold completeSession State.withProgress Handle.completed Handle.recordError
  cases a.ok <;> by_cases he : s.h.err = .ok <;> simp [he, respondOwed, respond]

theorem rxDisableAnswer_withProgress (b : Bool) (a : Answer) (s : State) :
    rxDisableAnswer a (s.withProgress b) = (rxDisableAnswer a s).withProgress b := by
  unfold rxDisableAnswer
  split
  · rfl
  · exact failSession_withProgress _ _ _

theorem rxLenAnswer_withProgress (b : Bool) (a : Answer) (s : State) :
    rxLenAnswer a (s.withProgress b) = (rxLenAnswer a s).withProgress b := by
  unfold rxLenAnswer
  split
  · dsimp only
    split
    · exact failSession_withProgress b .length { s with h := { s.h with frameLength := decodeRead a.rx } }
    · split <;> rfl
  · exact failSession_withProgress _ _ _

theorem readNext_withProgress (b : Bool) (s : State) : readNext (s.withProgress b) = (readNext s).withProgress b := by
  unfold readNext
  split
  · rw [if_pos (by assumption)]; rfl
  · rw [if_neg (by assumption)]; rfl

theorem rxLqAnswer_withProgress (b : Bool) (a : Answer) (s : State) :
    rxLqAnswer a (s.withProgress b) = (rxLqAnswer a s).withProgress b := by
  unfold rxLqAnswer
  split
  · rfl
  · exact failSession_withProgress _ _ _

theorem rxSsAnswer_withProgress (b : Bool) (a : Answer) (s : State) :
    rxSsAnswer a (s.withProgress b) = (rxSsAnswer a s).withProgress b := by
  unfold rxSsAnswer
  split
  · rfl
  · exact failSession_withProgress _ _ _

/-- The response rule moves the block the same way; the flag keeps its value or is written (R196). -/
theorem responseRule_withProgress {a : Answer} {s t : State} (b : Bool) (h : responseRule a s = .next t) :
    ∃ c, responseRule a (s.withProgress b) = .next (t.withProgress c) := by
  cases responded_of_responseRule h with
  | register st => exact ⟨b, responseRule_regBusy (s := s.withProgress b) st⟩
  | disable st => exact ⟨b, by rw [responseRule_rxDisable (by exact st), rxDisableAnswer_withProgress]⟩
  | len st => exact ⟨b, by rw [responseRule_rxLen (by exact st), rxLenAnswer_withProgress]⟩
  | data st ok room =>
    refine ⟨b, ?_⟩
    rw [responseRule_rxData (by exact st), rxDataAnswer, if_pos ok, if_pos (by exact room), ← readNext_withProgress]
    rfl
  | dataFailed st ok =>
    refine ⟨b, ?_⟩
    rw [responseRule_rxData (by exact st), rxDataAnswer, if_neg (by simp [ok]), failSession_withProgress]
  | lq st => exact ⟨b, by rw [responseRule_rxLq (by exact st), rxLqAnswer_withProgress]⟩
  | ss st => exact ⟨b, by rw [responseRule_rxSs (by exact st), rxSsAnswer_withProgress]⟩
  | enable st =>
    exact ⟨false, by rw [responseRule_rxEnable (by exact st), completeSession_withProgress]; rfl⟩

theorem takeAnswer_withProgress {sp : Scheme} {ad : LongAddr} {k : AccessKind} {s t : State} (b : Bool)
    (h : takeAnswer sp ad k s = .next t) :
    ∃ c, takeAnswer sp ad k (s.withProgress b) = .next (t.withProgress c) := by
  unfold takeAnswer at h ⊢
  cases ha : s.answer with
  | none =>
    rw [ha] at h
    obtain rfl : s = t := Host.Outcome.next.inj h
    exact ⟨b, by rw [show (s.withProgress b).answer = none from ha]⟩
  | some a =>
    rw [ha] at h
    rw [show (s.withProgress b).answer = some a from ha]
    cases fly : s.h.inflight with
    | false => simp [fly] at h
    | true =>
      simp only [fly, if_true] at h
      obtain ⟨c, hc⟩ := responseRule_withProgress b h
      exact ⟨c, (if_pos fly).trans hc⟩

/-- The outcome of a legal command word of opcode `op` whose acceptance does `start`: what WS, RS, WL, RL and RX share
(R120). -/
def commandOutcome (op : Opcode) (start : State → State) (s : State) : Host.Outcome State Fault Refusal :=
  .next (acceptCommand op (start s) s)

/-- If the start of a command does not read the flag, neither does the command, accepted or rejected (R120). -/
theorem commandOutcome_withProgress {op : Opcode} {start : State → State} {s t : State} (b c : Bool)
    (hstart : start (s.withProgress b) = (start s).withProgress c) (h : commandOutcome op start s = .next t) :
    ∃ d, commandOutcome op start (s.withProgress b) = .next (t.withProgress d) := by
  obtain rfl := Host.Outcome.next.inj h
  unfold commandOutcome
  by_cases st : s.h.st = .idle
  · exact ⟨c, by rw [acceptCommand_idle _ _ _ st, acceptCommand_idle _ _ _ (by exact st), hstart]⟩
  · exact ⟨b, by rw [acceptCommand_busy _ _ _ st, acceptCommand_busy _ _ _ (by exact st)]; rfl⟩

theorem exec_withProgress {i : Instr} {s t : State} (b : Bool) (h : exec i s = .next t) :
    ∃ c, exec i (s.withProgress b) = .next (t.withProgress c) := by
  cases i with
  | ws a v => exact commandOutcome_withProgress (start := startRegister 0x1#4 (memWrite .short a v)) b b rfl h
  | rs a => exact commandOutcome_withProgress (start := startRegister 0x2#4 (memRead .short a)) b b rfl h
  | wl a v => exact commandOutcome_withProgress (start := startRegister 0x3#4 (memWrite .long a v)) b b rfl h
  | rl a => exact commandOutcome_withProgress (start := startRegister 0x4#4 (memRead .long a)) b b rfl h
  | rx => exact commandOutcome_withProgress (start := startSession) b true rfl h
  | reservedOp0 | reservedOp6to7 | reservedOp8toF => exact ⟨b, Host.Outcome.next.inj h ▸ rfl⟩
  | frameShortWrite | frameShortRead | frameLongWrite | frameLongRead => exact takeAnswer_withProgress b h

/-- A step from a state with another flag is the same step, the flag apart. -/
theorem step_withProgress {s t : State} (b : Bool) (h : step s = .next t) :
    ∃ c, step (s.withProgress b) = .next (t.withProgress c) := by
  match hin : s.inputs with
  | [] =>
    obtain rfl : s = t := Host.Outcome.next.inj ((step_of_no_input hin).symm.trans h)
    exact ⟨b, step_of_no_input (s := s.withProgress b) hin⟩
  | .takeResponse :: rest =>
    obtain rfl := Host.Outcome.next.inj ((step_of_take hin).symm.trans h)
    exact ⟨b, step_of_take (s := s.withProgress b) hin⟩
  | .reset :: rest =>
    obtain rfl := Host.Outcome.next.inj ((step_of_reset hin).symm.trans h)
    exact ⟨false, step_of_reset (s := s.withProgress b) hin⟩
  | .command w :: rest =>
    rw [step_of_command hin] at h
    obtain ⟨c, hc⟩ := exec_withProgress b h
    exact ⟨c, (step_of_command (s := s.withProgress b) hin).trans hc⟩
  | .answer a :: rest =>
    cases fly : s.h.inflight with
    | false => simp [step_of_stray hin fly] at h
    | true =>
      match hd : decodeFrame s.h.txBytes with
      | .error e => simp [step_of_no_frame hin fly hd] at h
      | .ok i =>
        rw [step_of_answer hin fly hd] at h
        obtain ⟨c, hc⟩ := exec_withProgress b h
        exact ⟨c, (step_of_answer (s := s.withProgress b) hin fly hd).trans hc⟩

/-- Settles O41: the writers of the flag, and a step commutes with changing it. -/
theorem inProgressSetAndCleared : Obligations.InProgressSetAndCleared := by
  refine ⟨fun s t h hr => ⟨fun acc => ?start, fun ⟨st, a, tk⟩ => ?complete, fun noStart notDone => ?keep⟩,
    fun s t b h => ?unread⟩
  case start => rw [(sessionStart_of_step h acc).h]; rfl
  case complete => rw [completed_of_step h tk st]; rfl
  case keep =>
    obtain ⟨v, hv, hs⟩ := effect_of_step h hr
    rw [hs.h]
    by_contra hne
    exact (writer_of_inProgress_ne hv hne).elim noStart notDone
  case unread =>
    obtain ⟨c, hc⟩ := step_withProgress b h
    exact ⟨t.withProgress c, hc, rfl⟩

end Sys2Proof.Machine
end

section
/-! SUPPORT. The bus frames of the chip-access primitives (R52): the codec's formulas build the header of the masked
address (R71 to R74, R101 to R104), and the frame decoder reads a header's fields back (R75). -/

namespace Sys2Proof.Machine

/-! ## The codec's bytes are headers of the masked address -/

theorem encodeShortWrite_eq_header (a : Addr16) (v : Byte) :
    encodeShortWrite a v = [shortHeader (a.extractLsb' 0 6) 1#1, v] := by
  refine congrArg (· :: [v]) ?_
  apply byte_eq_of_bits
  all_goals simp only [shortHeader, BitVec.getLsbD_append]; simp

theorem encodeShortReadHeader_eq_header (a : Addr16) :
    encodeShortReadHeader a = shortHeader (a.extractLsb' 0 6) 0#1 := by
  unfold encodeShortReadHeader
  apply byte_eq_of_bits
  all_goals simp only [shortHeader, BitVec.getLsbD_append]; simp

theorem encodeLongReadHeader_eq_header (a : Addr16) :
    encodeLongReadHeader a = [longHeader0 (a.extractLsb' 0 10), longHeader1 (a.extractLsb' 0 10) 0#1] := by
  refine congrArg₂ (fun x y => [x, y]) ?_ ?_
  all_goals apply byte_eq_of_bits
  all_goals simp only [longHeader0, longHeader1, BitVec.getLsbD_append]; simp

theorem encodeLongWrite_eq_header (a : Addr16) (v : Byte) :
    encodeLongWrite a v = [longHeader0 (a.extractLsb' 0 10), longHeader1 (a.extractLsb' 0 10) 1#1, v] := by
  refine congrArg₂ (fun x y => [x, y, v]) ?_ ?_
  all_goals apply byte_eq_of_bits
  all_goals simp only [longHeader0, longHeader1, BitVec.getLsbD_append]; simp

/-! ## The decoder reads the headers back -/

theorem decodeFrame_shortWrite (a : ShortAddr) (v : Byte) :
    decodeFrame [shortHeader a 1#1, v] = .ok (.frameShortWrite a v) := by
  simp [decodeFrame, decodeWriteTail, shortHeader_scheme, shortHeader_write, shortHeader_addr]

theorem decodeFrame_shortRead (a : ShortAddr) : decodeFrame [shortHeader a 0#1] = .ok (.frameShortRead a) := by
  simp [decodeFrame, decodeReadTail, shortHeader_scheme, shortHeader_write, shortHeader_addr]

theorem decodeFrame_longWrite (a : LongAddr) (v : Byte) :
    decodeFrame [longHeader0 a, longHeader1 a 1#1, v] = .ok (.frameLongWrite a v) := by
  simp [decodeFrame, decodeLongTail, decodeWriteTail, longHeader0_scheme, longHeader0_addr, longHeader1_zero,
    longHeader1_write, longHeader1_addr, longAddrOf_fields]

theorem decodeFrame_longRead (a : LongAddr) :
    decodeFrame [longHeader0 a, longHeader1 a 0#1] = .ok (.frameLongRead a) := by
  simp [decodeFrame, decodeLongTail, decodeReadTail, longHeader0_scheme, longHeader0_addr, longHeader1_zero,
    longHeader1_write, longHeader1_addr, longAddrOf_fields]

/-- Settles O8: the primitive's bytes are the header of the masked address, which the decoder reads back. -/
theorem transactionsCarryTheirFrames : Obligations.TransactionsCarryTheirFrames := by
  intro a v
  refine ⟨?shortWrite, ?shortRead, ?longWrite, ?longRead, rfl, rfl, rfl, rfl⟩
  case shortWrite => rw [memWrite, encodeShortWrite_eq_header, decodeFrame_shortWrite]
  case shortRead => rw [memRead, encodeShortReadHeader_eq_header, decodeFrame_shortRead]
  case longWrite => rw [memWrite, encodeLongWrite_eq_header, decodeFrame_longWrite]
  case longRead => rw [memRead, encodeLongReadHeader_eq_header, decodeFrame_longRead]

end Sys2Proof.Machine
end

section
/-! SUPPORT. How the response step of an answer ends (R121, R142 to R150): it issues one transaction and emits nothing, or
it emits the response owed and issues nothing. -/

namespace Sys2Proof.Machine

/-- The ends of the response step: a command or a session completes (R121, R150), or the session goes on with a
transaction, the other fields being `h` (R142 to R149). -/
inductive Concluded (a : Answer) (s : State) : State → Prop
  | register (st : s.h.st = .regBusy) : Concluded a s (registerAnswer a s)
  | session (st : s.h.st = .rxEnable) : Concluded a s (completeSession a s)
  | issues (x : Transaction) (h : Handle) (opened : h.st.inSession = true) (kept : h.inProgress = s.h.inProgress) :
      Concluded a s (issue x { s with h := h })

theorem concluded_toEnable {a : Answer} {s : State} {h : Handle} (kept : h.inProgress = s.h.inProgress) :
    Concluded a s (toEnable { s with h := h }) :=
  .issues _ { h with st := .rxEnable } rfl kept

theorem concluded_failSession {a : Answer} {s : State} {h : Handle} (c : Status)
    (kept : h.inProgress = s.h.inProgress) : Concluded a s (failSession c { s with h := h }) :=
  concluded_toEnable (by simp [kept])

/-- Each branch of the response rules is one of the ends. -/
theorem concluded_of_responded {a : Answer} {s t : State} (h : Responded a s t) : Concluded a s t := by
  cases h with
  | register st => exact .register st
  | enable st => exact .session st
  | disable =>
    unfold rxDisableAnswer
    split
    · exact .issues _ { s.h with st := .rxLen } rfl rfl
    · exact concluded_failSession _ rfl
  | len =>
    unfold rxLenAnswer
    split
    · dsimp only
      split
      · exact concluded_failSession _ rfl
      split
      · exact .issues _ { s.h with frameLength := decodeRead a.rx, st := .rxLq } rfl rfl
      · exact .issues _ { s.h with frameLength := decodeRead a.rx, idx := 0#8, st := .rxData } rfl rfl
    · exact concluded_failSession _ rfl
  | data st =>
    unfold readNext
    split
    · exact .issues _ { s.h.storeByte (decodeRead a.rx) with st := .rxLq } rfl rfl
    · exact .issues _ (s.h.storeByte (decodeRead a.rx)) (by simp [st, St.inSession]) rfl
  | dataFailed => exact concluded_failSession _ rfl
  | lq =>
    unfold rxLqAnswer
    split
    · exact .issues _ { s.h with linkQuality := decodeRead a.rx, st := .rxSs } rfl rfl
    · exact concluded_failSession _ rfl
  | ss =>
    unfold rxSsAnswer
    split
    · exact concluded_toEnable rfl
    · exact concluded_failSession _ rfl

theorem St.ne_idle_of_inSession {x : St} (opened : x.inSession = true) : x ≠ .idle := by
  rintro rfl
  simp [St.inSession] at opened

/-- Settles O23: the frame's answer runs the response rule, which ends in one of two ways. -/
theorem answeredFramesComplete : Obligations.AnsweredFramesComplete := by
  intro i s a hf ha fly hst room
  obtain ⟨t, hr⟩ := responseRule_next (a := a)
    (s := { s.answered i a with h := { s.h with inflight := false } }) hst room
  refine ⟨t, (exec_frame_eq hf ha fly).trans hr, ?_⟩
  cases concluded_of_responded (responded_of_responseRule hr) with
  | register => exact ⟨rfl, rfl, rfl, rfl, .inl ⟨rfl, rfl, rfl, _, _, rfl⟩⟩
  | session => exact ⟨rfl, rfl, rfl, rfl, .inl ⟨by simp, rfl, rfl, _, _, completeSession_responses _ _⟩⟩
  | issues x h opened => exact ⟨rfl, rfl, rfl, rfl, .inr ⟨rfl, St.ne_idle_of_inSession opened, ⟨x, rfl⟩, rfl⟩⟩

end Sys2Proof.Machine
end

section
/-! SUPPORT. The completion of a session (R25, R64, R151): it is emitted in the step that clears `h.in_progress`. -/

namespace Sys2Proof.Machine

/-- The step emits a response to RX other than BUSY: a session's completion (R151). -/
def State.emitsCompletion (s t : State) : Prop :=
  ∃ r, t.responses = s.responses ++ [r] ∧ r.op = 0x5#4 ∧ r.status ≠ .busy

/-- The step clears `h.in_progress` (R25). -/
def State.closesSession (s t : State) : Prop := s.h.inProgress = true ∧ t.h.inProgress = false

/-- A response appended is a completion by its own fields. -/
theorem emitsCompletion_iff {s t : State} {r : Response} (h : t.responses = s.responses ++ [r]) :
    s.emitsCompletion t ↔ r.op = 0x5#4 ∧ r.status ≠ .busy := by
  simp [State.emitsCompletion, h]

theorem not_emitsCompletion_of_length_le {s t : State} (h : t.responses.length ≤ s.responses.length) :
    ¬ s.emitsCompletion t := by
  rintro ⟨r, hr, -⟩
  simp [hr] at h

theorem not_closesSession_of_eq {s t : State} (kept : t.h.inProgress = s.h.inProgress) : ¬ s.closesSession t := by
  rintro ⟨opened, closed⟩
  simp [kept, opened] at closed

/-- A bus frame in REG_BUSY belongs to a register command, never to RX (R122 to R125). -/
theorem op_ne_rx_of_isFrame {i : Instr} (hf : i.isFrame = true) : i.op ≠ 0x5#4 := by
  cases i <;> simp_all [Instr.isFrame, Instr.op]

theorem pendOp_ne_rx_of_regBusy {s : State} (ht : s.TransactionInv) (st : s.h.st = .regBusy) :
    s.h.pendOp ≠ 0x5#4 := by
  obtain ⟨i, ⟨hf, -, -⟩, hop⟩ := ht.2 st
  exact hop ▸ op_ne_rx_of_isFrame hf

/-- The status of a completion is OK, BUS_ERROR or LENGTH (R181). -/
theorem completed_err_ne_busy {h : Handle} (hd : h.DrainInv) (ok : Bool) : (h.completed ok).err ≠ .busy := by
  obtain ⟨-, -, -, hrange, -⟩ := hd
  have range := sessionError_ite (p := ok = false ∧ h.err = .ok) (.inl rfl) hrange
  rw [← Handle.completed_err] at range
  obtain e | e | e := range <;> simp [e]

/-- A command word opens a session or leaves the flag, and its own response is BUSY or ILLEGAL (R120). -/
theorem not_completion_of_commanded {w : CommandWord} {s t : State} (hc : Commanded w s t) :
    ¬ s.emitsCompletion t ∧ ¬ s.closesSession t := by
  cases hc with
  | illegal hl =>
    refine ⟨fun he => hl ?_, not_closesSession_of_eq rfl⟩
    have rx : wordOp w = 0x5#4 := ((emitsCompletion_iff rfl).mp he).1
    exact rx ▸ by decide
  | busy => exact ⟨fun he => ((emitsCompletion_iff rfl).mp he).2 rfl, not_closesSession_of_eq rfl⟩
  | register => exact ⟨not_emitsCompletion_of_length_le le_rfl, not_closesSession_of_eq rfl⟩
  | session => exact ⟨not_emitsCompletion_of_length_le le_rfl, fun hcl => Bool.noConfusion hcl.2⟩

/-- Of the ends of the response step only the session's both emits the completion and clears the flag (R150). -/
theorem completion_iff_of_concluded {a : Answer} {s t : State} (hc : Concluded a s t)
    (hprog : s.h.inProgress = true ↔ s.h.st.inSession = true) (hd : s.h.DrainInv) (ht : s.TransactionInv) :
    s.emitsCompletion t ↔ s.closesSession t := by
  cases hc with
  | register st =>
    refine iff_of_false (fun he => pendOp_ne_rx_of_regBusy ht st ?_) (not_closesSession_of_eq rfl)
    exact ((emitsCompletion_iff rfl).mp he).1
  | session st =>
    have opened : s.h.st.inSession = true := by rw [st]; rfl
    refine iff_of_true ?_ ⟨hprog.mpr opened, rfl⟩
    exact (emitsCompletion_iff (completeSession_responses a s)).mpr ⟨(ht.1 opened).1, completed_err_ne_busy hd a.ok⟩
  | issues x h _ kept =>
    exact iff_of_false (not_emitsCompletion_of_length_le le_rfl) (not_closesSession_of_eq kept)

/-- Only the answer to the re-enable write clears the flag (R25, R150). -/
theorem answeredIn_rxEnable_of_closesSession {s t : State} (h : step s = .next t) (hr : ¬ s.isReset)
    (hc : s.closesSession t) : s.answeredIn .rxEnable := by
  obtain ⟨opened, closed⟩ := hc
  obtain ⟨v, hv, hs⟩ := effect_of_step h hr
  have changed : v.h.inProgress ≠ s.h.inProgress := by rw [← hs.h, opened, closed]; decide
  refine (writer_of_inProgress_ne hv changed).resolve_left fun acc => ?_
  rw [(sessionStart_of_step h acc).h] at closed
  exact Bool.noConfusion closed

/-- Settles O48, by the events of a step: a command word, the client and the waiting block do neither, and an answer does
both or neither. -/
theorem completionClearsInProgress : Obligations.CompletionClearsInProgress := by
  intro s t hi h hr
  refine ⟨?_, fun opened closed => answeredIn_rxEnable_of_closesSession h hr ⟨opened, closed⟩⟩
  change s.emitsCompletion t ↔ s.closesSession t
  cases stepped_of_step h with
  | waits => exact iff_of_false (not_emitsCompletion_of_length_le le_rfl) (not_closesSession_of_eq rfl)
  | takes => exact iff_of_false (not_emitsCompletion_of_length_le (by simp)) (not_closesSession_of_eq rfl)
  | reset hin => exact absurd ⟨_, hin⟩ hr
  | command _ hc =>
    obtain ⟨noEmit, noClose⟩ := not_completion_of_commanded hc
    exact iff_of_false noEmit noClose
  | answer _ _ _ ans =>
    obtain ⟨⟨-, hprog, -⟩, hd, ht⟩ := hi
    -- the invariants and the two sides of the equivalence do not see that the transaction is over
    have both := completion_iff_of_concluded (concluded_of_responded ans) hprog hd ht
    exact both

end Sys2Proof.Machine
end

section
/-! SUPPORT. The encodings are made of their fields (R71, R73, R74, R78): a header byte or a command word is the one its
fields build. -/

namespace Sys2Proof

/-! ## Header bytes -/

/-- A field one bit wide is that bit. -/
theorem extractLsb'_one_eq {n k : Nat} {b : BitVec n} {w : BitVec 1} (h : b.getLsbD k = w.getLsbD 0) :
    b.extractLsb' k 1 = w := by
  apply BitVec.eq_of_getLsbD_eq
  intro i hi
  obtain rfl : i = 0 := by omega
  simpa using h

/-- A byte with scheme bit 0 is the short header of its fields (R71). -/
theorem shortHeader_of_fields {b : Byte} {w : BitVec 1} (scheme : b.getLsbD 7 = false)
    (write : b.getLsbD 0 = w.getLsbD 0) : shortHeader (b.extractLsb' 1 6) w = b := by
  rw [shortHeader, ← extractLsb'_one_eq (w := 0#1) scheme, ← extractLsb'_one_eq write,
    BitVec.extractLsb'_append_extractLsb'_eq_extractLsb' (by rfl), BitVec.extractLsb'_append_extractLsb']

/-- A byte with scheme bit 1 is long header byte 0 of the address bits [9:3] it holds (R73). -/
theorem longHeader0_of_fields {b : Byte} (lo : BitVec 3) (scheme : b.getLsbD 7 = true) :
    longHeader0 (longAddrOf (b.extractLsb' 0 7) lo) = b := by
  rw [longHeader0, longAddrOf, BitVec.extractLsb'_append_eq_left, ← extractLsb'_one_eq (w := 1#1) scheme,
    BitVec.extractLsb'_append_extractLsb']

/-- A byte with a zero low nibble is long header byte 1 of the address bits [2:0] it holds (R74). -/
theorem longHeader1_of_fields {b : Byte} {w : BitVec 1} (hi : BitVec 7) (zero : b.extractLsb' 0 4 = 0#4)
    (write : b.getLsbD 4 = w.getLsbD 0) : longHeader1 (longAddrOf hi (b.extractLsb' 5 3)) w = b := by
  rw [longHeader1, longAddrOf, BitVec.extractLsb'_append_eq_right, ← extractLsb'_one_eq write, ← zero,
    BitVec.extractLsb'_append_extractLsb'_eq_extractLsb' (by rfl), BitVec.extractLsb'_append_extractLsb']

/-! ## The command word -/

theorem commandWord_of_fields (w : CommandWord) :
    commandWord (wordOp w) (w.extractLsb' 24 4) (wordAddr w) (wordValue w) = w := by
  rw [commandWord, wordOp, wordAddr, wordValue, BitVec.extractLsb'_append_extractLsb'_eq_extractLsb' (by rfl),
    BitVec.extractLsb'_append_extractLsb'_eq_extractLsb' (by rfl), BitVec.extractLsb'_append_extractLsb']

theorem commandWord_and (op op' : Opcode) (rsv rsv' : BitVec 4) (a a' : Addr16) (v v' : Byte) :
    commandWord op rsv a v &&& commandWord op' rsv' a' v' =
      commandWord (op &&& op') (rsv &&& rsv') (a &&& a') (v &&& v') := by
  unfold commandWord
  rw [BitVec.and_append, BitVec.and_append, BitVec.and_append]

theorem toNat_commandWord (op : Opcode) (a : Addr16) (v : Byte) :
    (commandWord op 0#4 a v).toNat = op.toNat <<< 28 ||| a.toNat <<< 8 ||| v.toNat := by
  unfold commandWord
  rw [BitVec.toNat_append, BitVec.toNat_append, BitVec.toNat_append]
  simp [Nat.shiftLeft_or_distrib, ← Nat.shiftLeft_add]

/-! The bits a row reads (R78, R80): the word with the others cleared has the fields of the row, and 0 elsewhere. -/

/-- Keeping `OP` and the masked fields. -/
theorem and_commandWord_mask (w : CommandWord) (ma : Addr16) (mv : Byte) :
    w &&& commandWord 0xF#4 0#4 ma mv = commandWord (wordOp w) 0#4 (wordAddr w &&& ma) (wordValue w &&& mv) := by
  conv_lhs => rw [← commandWord_of_fields w, commandWord_and]
  rw [show 0xF#4 = BitVec.allOnes 4 from rfl, BitVec.and_allOnes, BitVec.and_zero]

theorem and_significantBits_of_write {w : CommandWord} (h : wordOp w = 0x1#4 ∨ wordOp w = 0x3#4) :
    w &&& significantBits w = commandWord (wordOp w) 0#4 (wordAddr w) (wordValue w) := by
  rw [significantBits, if_pos h,
    show 0xF0FFFFFF#32 = commandWord 0xF#4 0#4 (BitVec.allOnes 16) (BitVec.allOnes 8) from rfl, and_commandWord_mask,
    BitVec.and_allOnes, BitVec.and_allOnes]

theorem and_significantBits_of_read {w : CommandWord} (h : wordOp w = 0x2#4 ∨ wordOp w = 0x4#4) :
    w &&& significantBits w = commandWord (wordOp w) 0#4 (wordAddr w) 0#8 := by
  have not_write : ¬ (wordOp w = 0x1#4 ∨ wordOp w = 0x3#4) := by rcases h with h | h <;> simp [h]
  rw [significantBits, if_neg not_write, if_pos h,
    show 0xF0FFFF00#32 = commandWord 0xF#4 0#4 (BitVec.allOnes 16) 0#8 from rfl,
    and_commandWord_mask, BitVec.and_allOnes, BitVec.and_zero]

/-- RX and the reserved rows read `OP` alone. -/
theorem and_significantBits_of_op_only {w : CommandWord}
    (h : ¬ (wordOp w = 0x1#4 ∨ wordOp w = 0x2#4 ∨ wordOp w = 0x3#4 ∨ wordOp w = 0x4#4)) :
    w &&& significantBits w = commandWord (wordOp w) 0#4 0#16 0#8 := by
  rw [significantBits, if_neg (by tauto), if_neg (by tauto),
    show 0xF0000000#32 = commandWord 0xF#4 0#4 0#16 0#8 from rfl, and_commandWord_mask, BitVec.and_zero, BitVec.and_zero]

end Sys2Proof
end

section
/-! SUPPORT. The decoder by rows of the opcode table (R78 to R80), and that it and the encoder are inverse. -/

namespace Sys2Proof

/-! ## The rows of the command words -/

/-- Every operation code is of one row (R79, R80). -/
theorem opcode_row (op : Opcode) :
    op = 0x1#4 ∨ op = 0x2#4 ∨ op = 0x3#4 ∨ op = 0x4#4 ∨ op = 0x5#4 ∨ op = 0x0#4 ∨ (op = 0x6#4 ∨ op = 0x7#4) ∨
      0x8#4 ≤ op := by
  revert op; decide

theorem opcode_ne_of_ge_8 {op other : Opcode} (h : 0x8#4 ≤ op) (small : ¬ 0x8#4 ≤ other) : op ≠ other :=
  fun e => small (e ▸ h)

section
variable {w : CommandWord}

theorem decodeCommand_eq_ws (h : wordOp w = 0x1#4) : decodeCommand w = .ws (wordAddr w) (wordValue w) := by
  simp [decodeCommand, h]

theorem decodeCommand_eq_rs (h : wordOp w = 0x2#4) : decodeCommand w = .rs (wordAddr w) := by
  simp [decodeCommand, h]

theorem decodeCommand_eq_wl (h : wordOp w = 0x3#4) : decodeCommand w = .wl (wordAddr w) (wordValue w) := by
  simp [decodeCommand, h]

theorem decodeCommand_eq_rl (h : wordOp w = 0x4#4) : decodeCommand w = .rl (wordAddr w) := by
  simp [decodeCommand, h]

theorem decodeCommand_eq_rx (h : wordOp w = 0x5#4) : decodeCommand w = .rx := by
  simp [decodeCommand, h]

theorem decodeCommand_eq_reservedOp0 (h : wordOp w = 0x0#4) : decodeCommand w = .reservedOp0 := by
  simp [decodeCommand, h]

theorem decodeCommand_eq_reservedOp6to7 (h : wordOp w = 0x6#4 ∨ wordOp w = 0x7#4) :
    decodeCommand w = .reservedOp6to7 (wordOp w) := by
  rcases h with h | h <;> simp [decodeCommand, h]

theorem decodeCommand_eq_reservedOp8toF (h : 0x8#4 ≤ wordOp w) : decodeCommand w = .reservedOp8toF (wordOp w) := by
  simp [decodeCommand, opcode_ne_of_ge_8 h]

end

/-! ## Frames: the decoder accepts only what the encoder writes -/

theorem decodeWriteTail_eq_ok {mk : Byte → Instr} {bs : List Byte} {i : Instr} (h : decodeWriteTail mk bs = .ok i) :
    ∃ v, bs = [v] ∧ mk v = i := by
  match bs, h with
  | [v], h => exact ⟨v, rfl, Except.ok.inj h⟩

theorem decodeReadTail_eq_ok {j i : Instr} {bs : List Byte} (h : decodeReadTail j bs = .ok i) : bs = [] ∧ j = i := by
  match bs, h with
  | [], h => exact ⟨rfl, Except.ok.inj h⟩

theorem encode_of_decodeLongTail {b0 : Byte} {rest : List Byte} {i : Instr} (long : b0.getLsbD 7 = true)
    (h : decodeLongTail (b0.extractLsb' 0 7) rest = .ok i) : encode i = .frame (b0 :: rest) := by
  match rest with
  | [] => simp [decodeLongTail] at h
  | b1 :: rest =>
    by_cases zero : b1.extractLsb' 0 4 = 0#4
    case neg => simp [decodeLongTail, zero] at h
    rw [decodeLongTail, if_neg (not_not.mpr zero)] at h
    by_cases write : b1.getLsbD 4 = true
    · rw [if_pos write] at h
      obtain ⟨v, rfl, rfl⟩ := decodeWriteTail_eq_ok h
      rw [encode, longHeader0_of_fields _ long, longHeader1_of_fields (w := 1#1) _ zero write]
    · rw [if_neg write] at h
      obtain ⟨rfl, rfl⟩ := decodeReadTail_eq_ok h
      rw [encode, longHeader0_of_fields _ long,
        longHeader1_of_fields (w := 0#1) _ zero (Bool.eq_false_of_not_eq_true write)]

theorem encode_of_decodeFrame {bytes : List Byte} {i : Instr} (h : decodeFrame bytes = .ok i) :
    encode i = .frame bytes := by
  match bytes with
  | [] => simp [decodeFrame] at h
  | b0 :: rest =>
    by_cases long : b0.getLsbD 7 = true
    · rw [decodeFrame, if_pos long] at h
      exact encode_of_decodeLongTail long h
    have short : b0.getLsbD 7 = false := Bool.eq_false_of_not_eq_true long
    rw [decodeFrame, if_neg long] at h
    by_cases write : b0.getLsbD 0 = true
    · rw [if_pos write] at h
      obtain ⟨v, rfl, rfl⟩ := decodeWriteTail_eq_ok h
      rw [encode, shortHeader_of_fields (w := 1#1) short write]
    · rw [if_neg write] at h
      obtain ⟨rfl, rfl⟩ := decodeReadTail_eq_ok h
      rw [encode, shortHeader_of_fields (w := 0#1) short (Bool.eq_false_of_not_eq_true write)]

theorem wellFormed_of_isFrame {i : Instr} (h : i.isFrame = true) : i.wellFormed = true := by
  cases i <;> first | rfl | simp [Instr.isFrame] at h

/-! ## Command words: the encoder writes back what the row reads -/

theorem wellFormed_and_encode_decodeCommand (w : CommandWord) :
    (decodeCommand w).wellFormed = true ∧ (decodeCommand w).isFrame = false ∧
      encode (decodeCommand w) = .word (w &&& significantBits w) := by
  obtain ws | rs | wl | rl | rx | op0 | op6to7 | op8toF := opcode_row (wordOp w)
  · rw [decodeCommand_eq_ws ws, and_significantBits_of_write (.inl ws), ws]; exact ⟨rfl, rfl, rfl⟩
  · rw [decodeCommand_eq_rs rs, and_significantBits_of_read (.inl rs), rs]; exact ⟨rfl, rfl, rfl⟩
  · rw [decodeCommand_eq_wl wl, and_significantBits_of_write (.inr wl), wl]; exact ⟨rfl, rfl, rfl⟩
  · rw [decodeCommand_eq_rl rl, and_significantBits_of_read (.inr rl), rl]; exact ⟨rfl, rfl, rfl⟩
  · rw [decodeCommand_eq_rx rx, and_significantBits_of_op_only (by simp [rx]), rx]; exact ⟨rfl, rfl, rfl⟩
  · rw [decodeCommand_eq_reservedOp0 op0, and_significantBits_of_op_only (by simp [op0]), op0]; exact ⟨rfl, rfl, rfl⟩
  · rw [decodeCommand_eq_reservedOp6to7 op6to7,
      and_significantBits_of_op_only (by rcases op6to7 with op | op <;> simp [op])]
    exact ⟨by simpa [Instr.wellFormed] using op6to7, rfl, rfl⟩
  · rw [decodeCommand_eq_reservedOp8toF op8toF, and_significantBits_of_op_only (by simp [opcode_ne_of_ge_8 op8toF])]
    exact ⟨by simpa [Instr.wellFormed] using op8toF, rfl, rfl⟩

/-- Settles O7: a frame's bytes are the headers of the fields the decoder reads, and a command word is decoded by the
row of its `OP`. -/
theorem encodeInvertsDecode : Obligations.EncodeInvertsDecode :=
  ⟨fun _ _ h => ⟨wellFormed_of_isFrame (Machine.isFrame_of_decodeFrame h), Machine.isFrame_of_decodeFrame h,
    encode_of_decodeFrame h⟩,
   fun w => ⟨decodeCommand w, rfl, wellFormed_and_encode_decodeCommand w⟩⟩

end Sys2Proof
end

section
/-! SUPPORT. The command word of each row, built and decoded (R78, R79); that decoding inverts encoding. -/

namespace Sys2Proof

section
variable (rsv : BitVec 4) (a : Addr16) (v : Byte)

theorem decodeCommand_commandWord_ws : decodeCommand (commandWord 0x1#4 rsv a v) = .ws a v := by
  rw [decodeCommand_eq_ws (wordOp_commandWord ..), wordAddr_commandWord, wordValue_commandWord]

theorem decodeCommand_commandWord_rs : decodeCommand (commandWord 0x2#4 rsv a v) = .rs a := by
  rw [decodeCommand_eq_rs (wordOp_commandWord ..), wordAddr_commandWord]

theorem decodeCommand_commandWord_wl : decodeCommand (commandWord 0x3#4 rsv a v) = .wl a v := by
  rw [decodeCommand_eq_wl (wordOp_commandWord ..), wordAddr_commandWord, wordValue_commandWord]

theorem decodeCommand_commandWord_rl : decodeCommand (commandWord 0x4#4 rsv a v) = .rl a := by
  rw [decodeCommand_eq_rl (wordOp_commandWord ..), wordAddr_commandWord]

theorem decodeCommand_commandWord_rx : decodeCommand (commandWord 0x5#4 rsv a v) = .rx :=
  decodeCommand_eq_rx (wordOp_commandWord ..)

theorem decodeCommand_commandWord_reservedOp0 : decodeCommand (commandWord 0x0#4 rsv a v) = .reservedOp0 :=
  decodeCommand_eq_reservedOp0 (wordOp_commandWord ..)

theorem decodeCommand_commandWord_reservedOp6to7 {op : Opcode} (h : op = 0x6#4 ∨ op = 0x7#4) :
    decodeCommand (commandWord op rsv a v) = .reservedOp6to7 op := by
  rw [decodeCommand_eq_reservedOp6to7 (by rwa [wordOp_commandWord]), wordOp_commandWord]

theorem decodeCommand_commandWord_reservedOp8toF {op : Opcode} (h : 0x8#4 ≤ op) :
    decodeCommand (commandWord op rsv a v) = .reservedOp8toF op := by
  rw [decodeCommand_eq_reservedOp8toF (by rwa [wordOp_commandWord]), wordOp_commandWord]

end

/-- Settles O10: each clause is the row of its `OP`, with the fields the row reads. -/
theorem commandFieldsDecode : Obligations.CommandFieldsDecode := fun rsv a v =>
  ⟨decodeCommand_commandWord_ws rsv a v, decodeCommand_commandWord_rs rsv a v, decodeCommand_commandWord_wl rsv a v,
    decodeCommand_commandWord_rl rsv a v, decodeCommand_commandWord_rx rsv a v,
    decodeCommand_commandWord_reservedOp0 rsv a v, fun _ => decodeCommand_commandWord_reservedOp6to7 rsv a v,
    fun _ => decodeCommand_commandWord_reservedOp8toF rsv a v⟩

/-- Settles O6, by the rows: a command word has the fields it is built of, and each header byte those of its frame. -/
theorem decodeInvertsEncode : Obligations.DecodeInvertsEncode := by
  intro i hwf
  cases i with
  | ws a v => rw [encode, decode, decodeCommand_commandWord_ws]
  | rs a => rw [encode, decode, decodeCommand_commandWord_rs]
  | wl a v => rw [encode, decode, decodeCommand_commandWord_wl]
  | rl a => rw [encode, decode, decodeCommand_commandWord_rl]
  | rx => rw [encode, decode, decodeCommand_commandWord_rx]
  | reservedOp0 => rw [encode, decode, decodeCommand_commandWord_reservedOp0]
  | reservedOp6to7 op =>
    have row : op = 0x6#4 ∨ op = 0x7#4 := by simpa [Instr.wellFormed] using hwf
    rw [encode, decode, decodeCommand_commandWord_reservedOp6to7 _ _ _ row]
  | reservedOp8toF op =>
    have row : 0x8#4 ≤ op := by simpa [Instr.wellFormed] using hwf
    rw [encode, decode, decodeCommand_commandWord_reservedOp8toF _ _ _ row]
  | frameShortWrite a v => exact Machine.decodeFrame_shortWrite a v
  | frameShortRead a => exact Machine.decodeFrame_shortRead a
  | frameLongWrite a v => exact Machine.decodeFrame_longWrite a v
  | frameLongRead a => exact Machine.decodeFrame_longRead a

/-- Settles O9, by evaluation of the decoder. -/
theorem writtenOutWordsDecode : Obligations.WrittenOutWordsDecode :=
  ⟨rfl, rfl, rfl, rfl, rfl, rfl, rfl, rfl, rfl, rfl, rfl, rfl, rfl⟩

end Sys2Proof
end

section
/-! SUPPORT. The assembler (R82): the number it writes for a line is the command word of the line's operation. -/

namespace Sys2Proof

/-- The number of a command word. -/
theorem toNat_commandWord_ofNat (op : Opcode) {a v : Nat} (ha : a ≤ 0xFFFF) (hv : v ≤ 0xFF) :
    (commandWord op 0#4 (BitVec.ofNat 16 a) (BitVec.ofNat 8 v)).toNat = op.toNat <<< 28 ||| a <<< 8 ||| v := by
  rw [toNat_commandWord, BitVec.toNat_ofNat, BitVec.toNat_ofNat, Nat.mod_eq_of_lt (by omega),
    Nat.mod_eq_of_lt (by omega)]

/-- The formulas of R82 give the command word of their numbers: in range, these do not overlap. -/
theorem assemblerWord_eq_commandWord (op : Opcode) {a v : Nat} (ha : a ≤ 0xFFFF) (hv : v ≤ 0xFF) :
    (op ++ 0#28) ||| (BitVec.ofNat 32 a <<< 8) ||| BitVec.ofNat 32 v =
      commandWord op 0#4 (BitVec.ofNat 16 a) (BitVec.ofNat 8 v) := by
  have fits : a <<< 8 < 2 ^ 32 := by rw [Nat.shiftLeft_eq]; omega
  apply BitVec.eq_of_toNat_eq
  rw [toNat_commandWord_ofNat op ha hv, BitVec.toNat_or, BitVec.toNat_or, BitVec.toNat_append, BitVec.toNat_shiftLeft,
    BitVec.toNat_ofNat, BitVec.toNat_ofNat, BitVec.toNat_ofNat, Nat.mod_eq_of_lt (a := a) (by omega),
    Nat.mod_eq_of_lt (a := v) (by omega), Nat.mod_eq_of_lt fits, Nat.zero_mod, Nat.or_zero]

section
variable {a v : Nat}

theorem assemble_ws (ha : a ≤ 0xFFFF) (hv : v ≤ 0xFF) :
    assemble (.ws a v) = some (commandWord 0x1#4 0#4 (BitVec.ofNat 16 a) (BitVec.ofNat 8 v)) := by
  rw [← assemblerWord_eq_commandWord _ ha hv, assemble, if_pos (by simp [AsmLine.wellFormed, ha, hv])]; rfl

theorem assemble_rs (ha : a ≤ 0xFFFF) :
    assemble (.rs a) = some (commandWord 0x2#4 0#4 (BitVec.ofNat 16 a) 0#8) := by
  rw [← assemblerWord_eq_commandWord _ ha (Nat.zero_le _), assemble, if_pos (by simp [AsmLine.wellFormed, ha]),
    BitVec.or_zero]
  rfl

theorem assemble_wl (ha : a ≤ 0xFFFF) (hv : v ≤ 0xFF) :
    assemble (.wl a v) = some (commandWord 0x3#4 0#4 (BitVec.ofNat 16 a) (BitVec.ofNat 8 v)) := by
  rw [← assemblerWord_eq_commandWord _ ha hv, assemble, if_pos (by simp [AsmLine.wellFormed, ha, hv])]; rfl

theorem assemble_rl (ha : a ≤ 0xFFFF) :
    assemble (.rl a) = some (commandWord 0x4#4 0#4 (BitVec.ofNat 16 a) 0#8) := by
  rw [← assemblerWord_eq_commandWord _ ha (Nat.zero_le _), assemble, if_pos (by simp [AsmLine.wellFormed, ha]),
    BitVec.or_zero]
  rfl

end

theorem assemble_eq_none {l : AsmLine} (h : ¬ l.wellFormed = true) : assemble l = none :=
  if_neg h

/-- Settles O11: in range the number is the command word of the line's operation, and out of range there is none. -/
theorem assemblerWordsDecode : Obligations.AssemblerWordsDecode := by
  intro a v
  refine ⟨fun ha hv => ⟨?ws, ?rs, ?wl, ?rl, ?rx⟩, fun far => ?address, fun far => ?value⟩
  case ws =>
    exact ⟨_, assemble_ws ha hv, toNat_commandWord_ofNat _ ha hv, rfl, decodeCommand_commandWord_ws ..⟩
  case rs =>
    have number := toNat_commandWord_ofNat 0x2#4 ha (Nat.zero_le 0xFF)
    exact ⟨_, assemble_rs ha, number.trans (Nat.or_zero _), rfl, decodeCommand_commandWord_rs ..⟩
  case wl =>
    exact ⟨_, assemble_wl ha hv, toNat_commandWord_ofNat _ ha hv, rfl, decodeCommand_commandWord_wl ..⟩
  case rl =>
    have number := toNat_commandWord_ofNat 0x4#4 ha (Nat.zero_le 0xFF)
    exact ⟨_, assemble_rl ha, number.trans (Nat.or_zero _), rfl, decodeCommand_commandWord_rl ..⟩
  case rx => exact ⟨_, rfl, rfl, rfl, rfl⟩
  case address =>
    refine ⟨?_, ?_, ?_, ?_⟩
    all_goals exact assemble_eq_none (by simp [AsmLine.wellFormed]; omega)
  case value =>
    refine ⟨?_, ?_⟩
    all_goals exact assemble_eq_none (by simp [AsmLine.wellFormed]; omega)

end Sys2Proof
end

section
/-! SUPPORT. What a header determines (R75, R111): its fields, of which the scheme bit tells the
header's length. -/

namespace Sys2Proof.Machine

/-- Settles O1: the codec's bytes are the headers of the masked address. -/
theorem codecFollowsHeaderTables : Obligations.CodecFollowsHeaderTables := by
  intro a v
  have hi : (a.extractLsb' 0 10).extractLsb' 3 7 = a.extractLsb' 3 7 := BitVec.extractLsb'_extractLsb'_of_le (by decide)
  have lo : (a.extractLsb' 0 10).extractLsb' 0 3 = a.extractLsb' 0 3 := BitVec.extractLsb'_extractLsb'_of_le (by decide)
  refine ⟨encodeShortWrite_eq_header a v, encodeShortReadHeader_eq_header a, ?longWrite, ?longRead⟩
  case longWrite => rw [encodeLongWrite_eq_header, longHeader0, longHeader1, hi, lo]
  case longRead => rw [encodeLongReadHeader_eq_header, longHeader0, longHeader1, hi, lo]

/-! ## Headers -/

theorem shortHeader_injective {a b : ShortAddr} {w w' : BitVec 1} (h : shortHeader a w = shortHeader b w') :
    a = b ∧ w = w' := by
  refine ⟨by rw [← shortHeader_addr a w, h, shortHeader_addr], BitVec.eq_of_getElem_eq ?_⟩
  intro i hi
  obtain rfl : i = 0 := by omega
  rw [← shortHeader_write a w, ← shortHeader_write b w', h]

theorem longHeader_injective {a b : LongAddr} {w w' : BitVec 1} (h0 : longHeader0 a = longHeader0 b)
    (h1 : longHeader1 a w = longHeader1 b w') : a = b := by
  rw [← longAddrOf_fields a, ← longAddrOf_fields b, ← longHeader0_addr a, ← longHeader1_addr a w, h0, h1,
    longHeader0_addr, longHeader1_addr]

theorem longHeader1_write_ne (a b : LongAddr) : longHeader1 a 1#1 ≠ longHeader1 b 0#1 := by
  intro h
  have bit := longHeader1_write a 1#1
  rw [h, longHeader1_write] at bit
  simp at bit

/-- The scheme bits differ (R111). -/
theorem shortHeader_ne_longHeader0 (a : ShortAddr) (w : BitVec 1) (b : LongAddr) : shortHeader a w ≠ longHeader0 b := by
  intro h
  have scheme := shortHeader_scheme a w
  rw [h, longHeader0_scheme] at scheme
  simp at scheme

theorem headerLength_shortHeader (a : ShortAddr) (w : BitVec 1) : headerLength (shortHeader a w) = 1 := by
  simp [headerLength, shortHeader_scheme]

theorem headerLength_longHeader0 (a : LongAddr) : headerLength (longHeader0 a) = 2 := by
  simp [headerLength, longHeader0_scheme]

/-! ## Masked addresses -/

/-- A mask of the `k` low bits keeps the field of these bits and nothing else. -/
theorem and_mask_congr {k : Nat} {a b m : Addr16} (hm : m.toNat = 2 ^ k - 1)
    (h : a.extractLsb' 0 k = b.extractLsb' 0 k) : a &&& m = b &&& m := by
  have field : a.toNat % 2 ^ k = b.toNat % 2 ^ k := by simpa using congrArg BitVec.toNat h
  apply BitVec.eq_of_toNat_eq
  rw [BitVec.toNat_and, BitVec.toNat_and, hm, Nat.and_two_pow_sub_one_eq_mod, Nat.and_two_pow_sub_one_eq_mod, field]

theorem and_mask_of_shortHeader {a b : Addr16} {w w' : BitVec 1}
    (h : shortHeader (a.extractLsb' 0 6) w = shortHeader (b.extractLsb' 0 6) w') : a &&& 0x3F#16 = b &&& 0x3F#16 :=
  and_mask_congr (k := 6) rfl (shortHeader_injective h).1

theorem and_mask_of_longHeader {a b : Addr16} {w w' : BitVec 1}
    (h0 : longHeader0 (a.extractLsb' 0 10) = longHeader0 (b.extractLsb' 0 10))
    (h1 : longHeader1 (a.extractLsb' 0 10) w = longHeader1 (b.extractLsb' 0 10) w') : a &&& 0x3FF#16 = b &&& 0x3FF#16 :=
  and_mask_congr (k := 10) rfl (longHeader_injective h0 h1)

/-- Settles O5: the codec's bytes are headers (O1), and each clause is a fact about the headers' fields. -/
theorem headersAreInjective : Obligations.HeadersAreInjective := by
  intro a b v w
  simp only [encodeShortWrite_eq_header, encodeShortReadHeader_eq_header, encodeLongWrite_eq_header,
    encodeLongReadHeader_eq_header, List.take_succ_cons, List.take_zero, List.head?_cons, Option.map_some, ne_eq,
    Option.some.injEq, List.cons.injEq, and_true, not_and, headerLength_shortHeader, headerLength_longHeader0]
  refine ⟨and_mask_of_shortHeader, and_mask_of_shortHeader, fun h => and_mask_of_longHeader h.1 h.2,
    fun h => and_mask_of_longHeader h.1 h.2, fun h => ?direction, fun _ => longHeader1_write_ne _ _,
    shortHeader_ne_longHeader0 _ _ _, shortHeader_ne_longHeader0 _ _ _, shortHeader_ne_longHeader0 _ _ _,
    shortHeader_ne_longHeader0 _ _ _⟩
  case direction => exact absurd (shortHeader_injective h).2 (by decide)

end Sys2Proof.Machine
end

section
/-! SUPPORT. How a command word is taken (R80, R120). -/

namespace Sys2Proof.Machine

/-- Settles O20: each reserved row is `rejectIllegal`. -/
theorem illegalCommandsOnlyRespond : Obligations.IllegalCommandsOnlyRespond :=
  fun _ _ => ⟨rfl, rfl, rfl⟩

/-- A reserved operation code is answered ILLEGAL (R80). -/
theorem eq_rejectIllegal_of_commanded {w : CommandWord} {s t : State} (hc : Commanded w s t)
    (reserved : ¬ legalOp (wordOp w)) : t = rejectIllegal (wordOp w) s := by
  cases hc with
  | illegal => rfl
  | busy legal | register legal => exact absurd legal reserved
  | session h5 => exact absurd (h5 ▸ by decide) reserved

/-- A legal one is answered BUSY while the block is not idle (R120). -/
theorem eq_respond_busy_of_commanded {w : CommandWord} {s t : State} (hc : Commanded w s t)
    (legal : legalOp (wordOp w)) (busy : s.h.st ≠ .idle) : t = respond (wordOp w) .busy 0x00#8 s := by
  cases hc with
  | illegal reserved => exact absurd legal reserved
  | busy => rfl
  | register _ _ idle | session _ idle => exact absurd idle busy

/-- A legal one that finds the block idle puts its transaction on the bus (R121, R141). -/
theorem bus_of_commanded_idle {w : CommandWord} {s t : State} (hc : Commanded w s t) (legal : legalOp (wordOp w))
    (idle : s.h.st = .idle) : t.bus = s.bus ++ [commandTransaction s.params w] := by
  cases hc with
  | illegal reserved => exact absurd legal reserved
  | busy _ busy => exact absurd idle busy
  | register _ notRx => rw [commandTransaction, if_neg notRx]; rfl
  | session h5 => rw [commandTransaction, if_pos h5]; rfl

/-- Settles O21: the three ways a command word can be taken, the third by the row of its `OP`. -/
theorem commandWordAcceptance : Obligations.CommandWordAcceptance := by
  intro s w rest hin
  obtain ⟨t, ht, hc⟩ := exec_decodeCommand w { s with inputs := rest }
  have hstep : step s = .next t := (step_of_command hin).trans ht
  refine ⟨fun reserved => ?illegal, fun legal busy => ?busy, fun idle => ⟨t, hstep, ?accepted⟩⟩
  case illegal => rw [hstep, eq_rejectIllegal_of_commanded hc reserved]; rfl
  case busy => rw [hstep, eq_respond_busy_of_commanded hc legal busy]; rfl
  case accepted =>
    have row {i : Instr} {x : Transaction} (legal : legalOp (wordOp w)) (hi : decodeCommand w = i)
        (hx : commandTransaction s.params w = x) :
        exec i { s with inputs := rest } = .next t ∧ t.bus = s.bus ++ [x] := by
      have issued := bus_of_commanded_idle hc legal idle
      exact ⟨hi ▸ ht, hx ▸ issued⟩
    refine ⟨fun h => row (by rw [h]; decide) (decodeCommand_eq_ws h) ?_,
      fun h => row (by rw [h]; decide) (decodeCommand_eq_rs h) ?_,
      fun h => row (by rw [h]; decide) (decodeCommand_eq_wl h) ?_,
      fun h => row (by rw [h]; decide) (decodeCommand_eq_rl h) ?_,
      fun h => row (by rw [h]; decide) (decodeCommand_eq_rx h) ?_⟩
    all_goals simp [commandTransaction, registerTransaction, h, memWrite, memRead, wordAddr, wordValue]

/-- Words that agree on the bits their rows read are one instruction: the one that decodes from those bits alone. -/
theorem decodeCommand_congr {w w' : CommandWord} (h : w &&& significantBits w = w' &&& significantBits w') :
    decodeCommand w = decodeCommand w' := by
  obtain ⟨wf, -, enc⟩ := wellFormed_and_encode_decodeCommand w
  obtain ⟨wf', -, enc'⟩ := wellFormed_and_encode_decodeCommand w'
  have same : encode (decodeCommand w) = encode (decodeCommand w') := by rw [enc, enc', h]
  have ok : Except.ok (ε := FrameError) (decodeCommand w) = .ok (decodeCommand w') := by
    rw [← decodeInvertsEncode _ wf, same, decodeInvertsEncode _ wf']
  exact Except.ok.inj ok

/-- Settles O22: the step reads the word through its decoding alone. -/
theorem ignoredBitsHaveNoEffect : Obligations.IgnoredBitsHaveNoEffect := by
  intro s w w' rest h
  rw [step_of_command rfl, step_of_command rfl, decodeCommand_congr h]

end Sys2Proof.Machine
end

section
/-! SUPPORT. Masked addresses and the header decoders (R106 to R110): the codec reads an address through its masked field
alone, and a header decodes to the fields it was built of. -/

namespace Sys2Proof.Machine

/-! ## Masked addresses -/

/-- A mask that is all ones on the `k` low bits leaves the field of these bits as it is. -/
theorem extractLsb'_and_mask {k : Nat} {m : Addr16} (ones : m.extractLsb' 0 k = BitVec.allOnes k) (a : Addr16) :
    (a &&& m).extractLsb' 0 k = a.extractLsb' 0 k := by
  rw [BitVec.extractLsb'_and, ones, BitVec.and_allOnes]

theorem extractLsb'_and_3F (a : Addr16) : (a &&& 0x3F#16).extractLsb' 0 6 = a.extractLsb' 0 6 :=
  extractLsb'_and_mask rfl a

theorem extractLsb'_and_3FF (a : Addr16) : (a &&& 0x3FF#16).extractLsb' 0 10 = a.extractLsb' 0 10 :=
  extractLsb'_and_mask rfl a

/-- The masked address at the width of a short header's field. -/
theorem setWidth_and_3F (a : Addr16) : (a &&& 0x3F#16).setWidth 6 = a.extractLsb' 0 6 := by
  rw [BitVec.setWidth_eq_extractLsb' (by decide), extractLsb'_and_3F]

/-- The masked address at the width of a long header's field. -/
theorem setWidth_and_3FF (a : Addr16) : (a &&& 0x3FF#16).setWidth 10 = a.extractLsb' 0 10 := by
  rw [BitVec.setWidth_eq_extractLsb' (by decide), extractLsb'_and_3FF]

/-- An address in range is its own field. -/
theorem toNat_extractLsb'_of_lt {k : Nat} {a : Addr16} (h : a.toNat < 2 ^ k) : (a.extractLsb' 0 k).toNat = a.toNat := by
  rw [BitVec.extractLsb'_toNat, Nat.shiftRight_zero, Nat.mod_eq_of_lt h]

/-- Settles O2: the header's address field (O1) is the same for the masked address. -/
theorem encodersMaskAddresses : Obligations.EncodersMaskAddresses := by
  intro a m v
  refine ⟨?shortWrite, ?shortRead, ?longWrite, ?longRead, ?idempotent⟩
  case shortWrite => rw [encodeShortWrite_eq_header, encodeShortWrite_eq_header, extractLsb'_and_3F]
  case shortRead => rw [encodeShortReadHeader_eq_header, encodeShortReadHeader_eq_header, extractLsb'_and_3F]
  case longWrite => rw [encodeLongWrite_eq_header, encodeLongWrite_eq_header, extractLsb'_and_3FF]
  case longRead => rw [encodeLongReadHeader_eq_header, encodeLongReadHeader_eq_header, extractLsb'_and_3FF]
  case idempotent => rw [BitVec.and_assoc, BitVec.and_self]

/-! ## Decoding a header -/

/-- The short header decode (R107) reads the fields of R71. -/
theorem decodeShortHeader_eq_fields (h : Byte) :
    decodeShortHeader h = ⟨h.extractLsb' 7 1, h.extractLsb' 1 6, h.extractLsb' 0 1⟩ := by
  have addr : ((h >>> 1) &&& 0x3F#8).setWidth 6 = h.extractLsb' 1 6 := by
    rw [BitVec.setWidth_and, show (0x3F#8).setWidth 6 = BitVec.allOnes 6 from rfl, BitVec.and_allOnes,
      BitVec.setWidth_ushiftRight_eq_extractLsb]
  rw [decodeShortHeader, addr]

/-- The long header decode (R108) reads the fields of R73 and R74. -/
theorem decodeLongHeader_eq_fields (b0 b1 : Byte) :
    decodeLongHeader b0 b1 =
      ⟨b0.extractLsb' 7 1, longAddrOf (b0.extractLsb' 0 7) (b1.extractLsb' 5 3), b1.extractLsb' 4 1,
        b1.extractLsb' 0 4⟩ := by
  have hi : (b0 &&& 0x7F#8).setWidth 10 = (b0.extractLsb' 0 7).setWidth 10 := by
    apply BitVec.eq_of_toNat_eq
    rw [BitVec.toNat_setWidth, BitVec.toNat_and, show (0x7F#8).toNat = 2 ^ 7 - 1 from rfl,
      Nat.and_two_pow_sub_one_eq_mod, BitVec.toNat_setWidth, BitVec.extractLsb'_toNat, Nat.shiftRight_zero]
  have lo : (b1 >>> 5).setWidth 10 = (b1.extractLsb' 5 3).setWidth 10 := by
    apply BitVec.eq_of_toNat_eq
    rw [BitVec.toNat_setWidth, BitVec.toNat_ushiftRight, BitVec.toNat_setWidth, BitVec.extractLsb'_toNat]
    omega
  rw [decodeLongHeader, hi, lo, ← BitVec.setWidth_append_eq_shiftLeft_setWidth_or, BitVec.setWidth_eq, longAddrOf]

theorem decodeShortHeader_shortHeader (a : ShortAddr) (w : BitVec 1) :
    decodeShortHeader (shortHeader a w) = ⟨0#1, a, w⟩ := by
  rw [decodeShortHeader_eq_fields, extractLsb'_one_eq (w := 0#1) (shortHeader_scheme a w), shortHeader_addr,
    extractLsb'_one_eq (shortHeader_write a w)]

theorem decodeLongHeader_longHeader (a : LongAddr) (w : BitVec 1) :
    decodeLongHeader (longHeader0 a) (longHeader1 a w) = ⟨1#1, a, w, 0#4⟩ := by
  rw [decodeLongHeader_eq_fields, extractLsb'_one_eq (w := 1#1) (longHeader0_scheme a), longHeader0_addr,
    longHeader1_addr, longAddrOf_fields, extractLsb'_one_eq (longHeader1_write a w), longHeader1_zero]

/-- Settles O3: the codec's bytes are headers (O1), and a header decodes to its fields. -/
theorem headerDecodeInvertsEncode : Obligations.HeaderDecodeInvertsEncode := by
  intro a v
  rw [setWidth_and_3F, setWidth_and_3FF]
  refine ⟨⟨_, encodeShortWrite_eq_header a v, decodeShortHeader_shortHeader _ _⟩, ?shortRead,
    ⟨_, _, encodeLongWrite_eq_header a v, decodeLongHeader_longHeader _ _⟩,
    ⟨_, _, encodeLongReadHeader_eq_header a, decodeLongHeader_longHeader _ _⟩,
    toNat_extractLsb'_of_lt (k := 6), toNat_extractLsb'_of_lt (k := 10)⟩
  case shortRead => rw [encodeShortReadHeader_eq_header, decodeShortHeader_shortHeader]

/-! ## The bit laws -/

/-- Bits 7 and 0 of a short header are 0 and its direction (R71). -/
theorem shortHeader_and_81 (a : ShortAddr) (w : BitVec 1) : shortHeader a w &&& 0x81#8 = w.setWidth 8 := by
  apply byte_eq_of_bits
  all_goals simp [shortHeader_scheme, shortHeader_write]

/-- Settles O4: the codec's bytes are headers (O1), whose fixed and direction bits these are. -/
theorem headerBitLaws : Obligations.HeaderBitLaws := by
  intro a v
  refine ⟨⟨_, encodeShortWrite_eq_header a v, shortHeader_and_81 _ _⟩, ?shortRead,
    ⟨_, _, encodeLongWrite_eq_header a v, longHeader0_scheme _, longHeader1_write _ _⟩,
    ⟨_, _, encodeLongReadHeader_eq_header a, longHeader1_write _ _⟩⟩
  case shortRead => rw [encodeShortReadHeader_eq_header]; exact shortHeader_and_81 _ _

end Sys2Proof.Machine
end

section
/-! SUPPORT. The response step of a register command (R121, R127, R182). -/

namespace Sys2Proof.Machine

/-- The response owed to a register command, by the outcome of its transaction (R121). -/
theorem registerResponse_eq (op : Opcode) (rxn : BitVec 1) (a : Answer) :
    (⟨op, answerStatus a, answerData rxn a⟩ : Response) =
      if a.ok then ⟨op, .ok, if rxn = 1#1 then a.rx else 0x00#8⟩ else ⟨op, .busError, 0x00#8⟩ := by
  by_cases ok : a.ok <;> simp [answerStatus, answerData, decodeRead, ok]

/-- Settles O25: the answer's step in REG_BUSY is `registerAnswer`, which emits that response. -/
theorem registerAnswerResponds : Obligations.RegisterAnswerResponds := by
  intro i s a hf ha fly st
  rw [exec_frame_eq hf ha fly, ← registerResponse_eq]
  exact responseRule_regBusy st

end Sys2Proof.Machine
end

section
/-! SUPPORT. The acceptance step of a register command, and the commands a busy block answers (R120 to R125, R183). -/

namespace Sys2Proof.Machine

/-- A register command that finds the block idle issues its transaction and changes nothing else (R121). -/
theorem issued_of_acceptCommand_startRegister {i : Instr} {op : Opcode} {x : Transaction} {s : State}
    (hexec : exec i s = .next (acceptCommand op (startRegister op x s) s)) (idle : s.h.st = .idle)
    (fits : x.bytes.length ≤ 3) :
    ∃ t, exec i s = .next t ∧ s.issued { s.h with st := .regBusy, pendOp := op } x t := by
  rw [acceptCommand_idle _ _ _ idle] at hexec
  exact ⟨_, hexec, issued_issue s _ x fits⟩

/-- Settles O17: each register command is accepted with its chip access (R52) as its transaction. -/
theorem registerCommandsIssueTheirTransaction : Obligations.RegisterCommandsIssueTheirTransaction := fun _ a v idle =>
  ⟨issued_of_acceptCommand_startRegister rfl idle (memWrite_length_le .short a v),
    issued_of_acceptCommand_startRegister rfl idle (memRead_length_le .short a),
    issued_of_acceptCommand_startRegister rfl idle (memWrite_length_le .long a v),
    issued_of_acceptCommand_startRegister rfl idle (memRead_length_le .long a)⟩

/-- A command that finds the block busy only emits BUSY (R183). -/
theorem exec_of_acceptCommand_busy {i : Instr} {op : Opcode} {s u : State}
    (hexec : exec i s = .next (acceptCommand op u s)) (busy : s.h.st ≠ .idle) :
    exec i s = .next { s with responses := s.responses ++ [⟨op, .busy, 0x00#8⟩] } := by
  rw [hexec, acceptCommand_busy _ _ _ busy, respond]

/-- Settles O19: each legal command goes through `acceptCommand`. -/
theorem busyBlockRejectsCommands : Obligations.BusyBlockRejectsCommands := fun _ _ _ busy =>
  ⟨exec_of_acceptCommand_busy rfl busy, exec_of_acceptCommand_busy rfl busy, exec_of_acceptCommand_busy rfl busy,
    exec_of_acceptCommand_busy rfl busy, exec_of_acceptCommand_busy rfl busy⟩

end Sys2Proof.Machine
end

section
/-! SUPPORT. What a step does to the response channel (R182, R183): it is silent, rejects a command, emits the response
owed, or hands the oldest response to the client. -/

namespace Sys2Proof.Machine

/-- The step emits nothing, and a busy block stays busy. -/
def State.staysSilent (s t : State) : Prop :=
  t.responses = s.responses ∧ (s.h.st ≠ .idle → t.h.st ≠ .idle)

/-- The step emits BUSY or ILLEGAL and leaves the fields as they are (R80, R183). -/
def State.rejectsCommand (s t : State) : Prop :=
  ∃ r, t.responses = s.responses ++ [r] ∧ (r.status = .busy ∨ r.status = .illegal) ∧ t.h = s.h

/-- The step emits the response owed and returns the block to IDLE (R121, R150). -/
def State.emitsOwed (s t : State) : Prop :=
  ∃ r, t.responses = s.responses ++ [r] ∧ r.op = s.h.pendOp ∧ (r.status ≠ .busy ∧ r.status ≠ .illegal) ∧
    s.h.st ≠ .idle ∧ t.h.st = .idle

/-- The client takes the oldest response (R182). -/
def State.clientTook (s t : State) : Prop :=
  (∃ rest, s.inputs = .takeResponse :: rest) ∧ t.responses = s.responses.tail ∧ t.h = s.h

/-- A command word is rejected, or its response is owed (R120). -/
theorem silent_or_rejects_of_commanded {w : CommandWord} {s t : State} (hc : Commanded w s t) :
    s.staysSilent t ∨ s.rejectsCommand t := by
  cases hc with
  | illegal => exact .inr ⟨_, rfl, .inr rfl, rfl⟩
  | busy => exact .inr ⟨_, rfl, .inl rfl, rfl⟩
  | register _ _ idle | session _ idle => exact .inl ⟨rfl, absurd idle⟩

/-- The statuses an error flag can hold are those of no rejection (R181). -/
theorem status_ne_rejection {c : Status} (h : c = .ok ∨ c = .busError ∨ c = .length) : c ≠ .busy ∧ c ≠ .illegal := by
  obtain rfl | rfl | rfl := h <;> decide

theorem answerStatus_ne_rejection (a : Answer) : answerStatus a ≠ .busy ∧ answerStatus a ≠ .illegal := by
  unfold answerStatus
  split <;> decide

/-- The response step of an answer emits what is owed exactly when it ends the command; the status of a session's
completion is its error flag. -/
theorem silent_or_owed_of_concluded {a : Answer} {s t : State} (hc : Concluded a s t) (hd : t.h.DrainInv) :
    s.staysSilent t ∨ s.emitsOwed t := by
  cases hc with
  | register st => exact .inr ⟨_, rfl, rfl, answerStatus_ne_rejection a, by simp [st], rfl⟩
  | session st =>
    obtain ⟨-, -, -, range, -⟩ := hd
    exact .inr ⟨_, completeSession_responses a s, rfl, status_ne_rejection range, by simp [st], rfl⟩
  | issues x h opened => exact .inl ⟨rfl, fun _ => St.ne_idle_of_inSession opened⟩

/-- Everything a step that is no reset does to the response channel. -/
theorem channel_of_step {s t : State} (hi : s.Inv) (h : step s = .next t) (hr : ¬ s.isReset) :
    s.staysSilent t ∨ s.rejectsCommand t ∨ s.emitsOwed t ∨ s.clientTook t := by
  obtain ⟨inv, drain, -⟩ := hi
  have hd : t.h.DrainInv := drainInv_step inv drain h
  cases stepped_of_step h with
  | waits => exact .inl ⟨rfl, id⟩
  | command _ hc => exact (silent_or_rejects_of_commanded hc).imp_right .inl
  | answer _ _ _ ans => exact (silent_or_owed_of_concluded (concluded_of_responded ans) hd).imp_right (.inr ∘ .inl)
  | takes hin => exact .inr (.inr (.inr ⟨⟨_, hin⟩, rfl, rfl⟩))
  | reset hin => exact absurd ⟨_, hin⟩ hr

/-- A channel that has not grown has no new response at its end. -/
theorem ne_append_singleton_of_length_le {new old : List Response} (h : new.length ≤ old.length) (r : Response) :
    new ≠ old ++ [r] := by
  rintro rfl
  simp at h

/-- The response a step appends is the only one it does. -/
theorem appended_response_unique {new old : List Response} {r r' : Response} (h : new = old ++ [r])
    (h' : new = old ++ [r']) : r = r' := by
  simpa [h] using h'

/-- Settles O47, by what a step does to the channel. -/
theorem responsesLeaveInOrder : Obligations.ResponsesLeaveInOrder := by
  intro s t hi h hr
  obtain ⟨same, stays⟩ | ⟨r, emit, status, kept⟩ | ⟨r, emit, op, ⟨notBusy, notIllegal⟩, busy, idle⟩ |
    ⟨took, tail, kept⟩ := channel_of_step hi h hr
  · have ungrown := ne_append_singleton_of_length_le (congrArg List.length same).le
    exact ⟨.inl same, fun r e => absurd e (ungrown r), fun b i => absurd i (stays b)⟩
  · exact ⟨.inr (.inl ⟨r, emit⟩), fun r' e => .inl ⟨appended_response_unique emit e ▸ status, kept⟩,
      fun b i => absurd (kept ▸ i) b⟩
  · exact ⟨.inr (.inl ⟨r, emit⟩), fun r' e => .inr ⟨appended_response_unique emit e ▸ op, busy, idle⟩,
      fun _ _ => ⟨r, emit, op, notBusy, notIllegal⟩⟩
  · have ungrown := ne_append_singleton_of_length_le (new := t.responses) (old := s.responses) (by simp [tail])
    exact ⟨.inr (.inr ⟨took, tail⟩), fun r e => absurd e (ungrown r), fun b i => absurd (kept ▸ i) b⟩

end Sys2Proof.Machine
end

section
/-! SUPPORT. The FIFO addresses (R152), the acceptance of RX (R141), and the response step of each state of a session in
the words of the statements (R143 to R150): what the answer issues, and the fields it issues with. -/

namespace Sys2Proof.Machine

/-! ## The operands of the FIFO reads -/

/-- A FIFO read puts the low ten bits of its operand on the bus (R106, R142). -/
theorem decodeFrame_fifoRead {x : Addr16} {n : Nat} (hx : x.toNat = n) :
    decodeFrame (fifoRead x).bytes = .ok (.frameLongRead (BitVec.ofNat 10 (n % 1024))) := by
  obtain ⟨-, -, -, long, -⟩ := transactionsCarryTheirFrames x 0#8
  rw [fifoRead, long]
  congr 2
  apply BitVec.eq_of_toNat_eq
  simp [hx]

/-- The sum of R152 does not overflow. -/
theorem toNat_fifoDataAddr (p : Params) (i : Byte) :
    (fifoDataAddr p i).toNat = p.fifoDataBase.toNat + i.toNat := by
  simp only [fifoDataAddr, BitVec.toNat_add, BitVec.toNat_setWidth]
  omega

theorem toNat_fifoSsAddr (p : Params) (n : Byte) :
    (fifoSsAddr p n).toNat = p.fifoDataBase.toNat + n.toNat + 1 := by
  simp only [fifoSsAddr, BitVec.toNat_add, toNat_fifoDataAddr, BitVec.toNat_ofNat]
  omega

theorem toNat_fifoLenAddr (p : Params) : (fifoLenAddr p).toNat = p.fifoLenAddr.toNat := by
  simp only [fifoLenAddr, BitVec.toNat_setWidth]
  omega

/-- Settles O12: the operands are sums without overflow, and the codec keeps their low ten bits. -/
theorem fifoAddressesWrap : Obligations.FifoAddressesWrap := fun p n _ =>
  ⟨fun i _ => decodeFrame_fifoRead (toNat_fifoDataAddr p i), decodeFrame_fifoRead (toNat_fifoDataAddr p n),
    decodeFrame_fifoRead (toNat_fifoSsAddr p n), decodeFrame_fifoRead (toNat_fifoLenAddr p)⟩

/-! ## The acceptance of RX -/

/-- The write of a chip register in either scheme (R52). -/
theorem memWrite_eq_match (sc : Scheme) (a : Addr16) (v : Byte) :
    memWrite sc a v = match sc with
      | .short => ⟨encodeShortWrite a v, 0#1⟩
      | .long => ⟨encodeLongWrite a v, 0#1⟩ := by
  cases sc <;> rfl

/-- Settles O18: an idle block starts the session, whose one issue is the disable write, and a busy one answers BUSY. -/
theorem receiveCommandOpensSession : Obligations.ReceiveCommandOpensSession := by
  refine fun s => ⟨fun idle => ⟨startSession s, ?_, ?_⟩, exec_of_acceptCommand_busy rfl⟩
  · exact congrArg Host.Outcome.next (acceptCommand_idle _ _ _ idle)
  · have start := issued_issue s
      { s.h.clearError with
        inProgress := true, frameLength := Config.lenSentinel, pendOp := 0x5#4, idx := 0#8, st := .rxDisable }
      (bbWrite s.params s.params.bbDisable) (bbWrite_length_le _ _)
    rw [bbWrite, memWrite_eq_match] at start
    exact start

/-! ## What an answer issues -/

/-- The state the response rule of `h.st` finds: the ports have taken the answer, and the transaction is over (R196). -/
def State.taken (s : State) (i : Instr) (a : Answer) : State :=
  { s.answered i a with h := { s.h with inflight := false } }

theorem exec_frame_eq_taken {i : Instr} {s : State} {a : Answer} (hf : i.isFrame = true) (ha : s.answer = some a)
    (fly : s.h.inflight = true) : exec i s = responseRule a (s.taken i a) :=
  exec_frame_eq hf ha fly

/-- A response rule that issues `x` with the fields `h` does so in the words of the statements; `h.inflight` is set again
by the issue. -/
theorem exec_issues_of_responseRule {i : Instr} {s : State} {a : Answer} {h : Handle} {x : Transaction}
    (hf : i.isFrame = true) (ha : s.answer = some a) (fly : s.h.inflight = true)
    (rule : responseRule a (s.taken i a) = .next (issue x { s.taken i a with h := { h with inflight := false } }))
    (fits : x.bytes.length ≤ 3) :
    ∃ t, exec i s = .next t ∧ (s.answered i a).issued h x t :=
  ⟨_, (exec_frame_eq_taken hf ha fly).trans rule, issued_issue _ { h with inflight := false } x fits⟩

/-- A failed session issues the re-enable write with the first error recorded (R142, R186). -/
theorem failSession_eq_issue (c : Status) (s : State) :
    failSession c s = issue (bbWrite s.params s.params.bbEnable) { s with h := s.h.failed c } := by
  unfold failSession toEnable Handle.recordError Handle.failed
  split <;> simp_all

/-- Every state of a session before RX_ENABLE answers a failed transaction by failing the session (R143 to R148). -/
theorem responseRule_of_failed {a : Answer} {s : State} (opened : s.h.st.inSession = true)
    (notLast : s.h.st ≠ .rxEnable) (bad : a.ok = false) : responseRule a s = .next (failSession .busError s) := by
  unfold responseRule
  split <;> rename_i st
  case h_1 | h_2 => simp [st, St.inSession] at opened
  case h_8 => exact absurd st notLast
  all_goals simp [rxDisableAnswer, rxLenAnswer, rxDataAnswer, rxLqAnswer, rxSsAnswer, bad]

section
variable {i : Instr} {s : State} {a : Answer} (hf : i.isFrame = true) (ha : s.answer = some a)
  (fly : s.h.inflight = true)
include hf ha fly

theorem exec_issues_of_failed (opened : s.h.st.inSession = true) (notLast : s.h.st ≠ .rxEnable) (bad : a.ok = false) :
    ∃ t, exec i s = .next t ∧
      (s.answered i a).issued (s.h.failed .busError) (bbWrite s.params s.params.bbEnable) t := by
  refine exec_issues_of_responseRule hf ha fly ?_ (bbWrite_length_le _ _)
  rw [responseRule_of_failed (by exact opened) (by exact notLast) bad, failSession_eq_issue]
  rfl

theorem exec_issues_of_rxDisable (st : s.h.st = .rxDisable) (ok : a.ok = true) :
    ∃ t, exec i s = .next t ∧
      (s.answered i a).issued { s.h with st := .rxLen } (fifoRead (fifoLenAddr s.params)) t := by
  refine exec_issues_of_responseRule hf ha fly ?_ (fifoRead_length_le _)
  rw [responseRule_rxDisable (by exact st), rxDisableAnswer, if_pos ok]
  rfl

/-- A length over 127 is kept and fails the session (R144, R145). -/
theorem exec_issues_of_rxLen_long (st : s.h.st = .rxLen) (ok : a.ok = true) (long : 127 < a.rx.toNat) :
    ∃ t, exec i s = .next t ∧
      (s.answered i a).issued { s.h.failed .length with frameLength := a.rx }
        (bbWrite s.params s.params.bbEnable) t := by
  refine exec_issues_of_responseRule hf ha fly ?_ (bbWrite_length_le _ _)
  rw [responseRule_rxLen (by exact st), rxLenAnswer, if_pos ok]
  dsimp only
  rw [if_pos (by exact long), failSession_eq_issue]
  rfl

/-- An empty frame has no drain (R144). -/
theorem exec_issues_of_rxLen_zero (st : s.h.st = .rxLen) (ok : a.ok = true) (zero : a.rx = 0#8) :
    ∃ t, exec i s = .next t ∧
      (s.answered i a).issued { s.h with frameLength := 0#8, st := .rxLq }
        (fifoRead (fifoDataAddr s.params 0#8)) t := by
  refine exec_issues_of_responseRule hf ha fly ?_ (fifoRead_length_le _)
  rw [responseRule_rxLen (by exact st), rxLenAnswer, if_pos ok]
  simp only [decodeRead, zero]
  rfl

/-- The drain starts at data byte 0 (R144). -/
theorem exec_issues_of_rxLen_drain (st : s.h.st = .rxLen) (ok : a.ok = true) (pos : a.rx ≠ 0#8)
    (fits : a.rx.toNat ≤ 127) :
    ∃ t, exec i s = .next t ∧
      (s.answered i a).issued { s.h with frameLength := a.rx, idx := 0#8, st := .rxData }
        (fifoRead (fifoDataAddr s.params 0#8)) t := by
  refine exec_issues_of_responseRule hf ha fly ?_ (fifoRead_length_le _)
  rw [responseRule_rxLen (by exact st), rxLenAnswer, if_pos ok]
  dsimp only
  rw [if_neg (by exact Nat.not_lt.mpr fits), if_neg (by exact pos)]
  rfl

theorem exec_issues_of_rxData_last (st : s.h.st = .rxData) (ok : a.ok = true) (room : s.h.idx.toNat < 127)
    (last : s.h.idx + 1#8 = s.h.frameLength) :
    ∃ t, exec i s = .next t ∧
      (s.answered i a).issued { s.h.storeByte a.rx with st := .rxLq }
        (fifoRead (fifoDataAddr s.params s.h.frameLength)) t := by
  refine exec_issues_of_responseRule hf ha fly ?_ (fifoRead_length_le _)
  rw [responseRule_rxData (by exact st), rxDataAnswer, if_pos ok, if_pos (by exact room), readNext,
    if_pos (by exact last)]
  rfl

theorem exec_issues_of_rxData_more (st : s.h.st = .rxData) (ok : a.ok = true) (room : s.h.idx.toNat < 127)
    (more : s.h.idx + 1#8 ≠ s.h.frameLength) :
    ∃ t, exec i s = .next t ∧
      (s.answered i a).issued (s.h.storeByte a.rx) (fifoRead (fifoDataAddr s.params (s.h.idx + 1#8))) t := by
  refine exec_issues_of_responseRule hf ha fly ?_ (fifoRead_length_le _)
  rw [responseRule_rxData (by exact st), rxDataAnswer, if_pos ok, if_pos (by exact room), readNext,
    if_neg (by exact more)]
  rfl

theorem exec_issues_of_rxLq (st : s.h.st = .rxLq) (ok : a.ok = true) :
    ∃ t, exec i s = .next t ∧
      (s.answered i a).issued { s.h with linkQuality := a.rx, st := .rxSs }
        (fifoRead (fifoSsAddr s.params s.h.frameLength)) t := by
  refine exec_issues_of_responseRule hf ha fly ?_ (fifoRead_length_le _)
  rw [responseRule_rxLq (by exact st), rxLqAnswer, if_pos ok]
  rfl

theorem exec_issues_of_rxSs (st : s.h.st = .rxSs) (ok : a.ok = true) :
    ∃ t, exec i s = .next t ∧
      (s.answered i a).issued { s.h with signalStrength := a.rx, st := .rxEnable }
        (bbWrite s.params s.params.bbEnable) t := by
  refine exec_issues_of_responseRule hf ha fly ?_ (bbWrite_length_le _ _)
  rw [responseRule_rxSs (by exact st), rxSsAnswer, if_pos ok]
  rfl

end

/-- Settles O26, by the outcome of the disable write. -/
theorem disableAnswer : Obligations.DisableAnswer := fun _ _ _ hf ha fly st =>
  ⟨exec_issues_of_rxDisable hf ha fly st, exec_issues_of_failed hf ha fly (by rw [st]; rfl) (by simp [st])⟩

/-- The first data address of the FIFO is its base. -/
theorem fifoDataAddr_zero (p : Params) : fifoDataAddr p 0#8 = p.fifoDataBase.setWidth 16 := by
  simp [fifoDataAddr]

/-- Settles O27, by the outcome of the length read and the length. -/
theorem lengthAnswer : Obligations.LengthAnswer := by
  intro i s a hf ha fly st
  refine ⟨exec_issues_of_failed hf ha fly (by rw [st]; rfl) (by simp [st]), exec_issues_of_rxLen_long hf ha fly st,
    fun ok zero => ?_, fun ok pos fits => ?_⟩
  all_goals rw [← fifoDataAddr_zero]
  · exact exec_issues_of_rxLen_zero hf ha fly st ok (BitVec.eq_of_toNat_eq zero)
  · exact exec_issues_of_rxLen_drain hf ha fly st ok (by rintro e; simp [e] at pos) fits

/-- Settles O28, by the outcome of the data read and whether its byte is the last. -/
theorem dataAnswer : Obligations.DataAnswer := by
  refine fun _ _ _ hf ha fly st => ⟨exec_issues_of_failed hf ha fly (by rw [st]; rfl) (by simp [st]), ?last,
    exec_issues_of_rxData_more hf ha fly st⟩
  intro ok room last
  have read := exec_issues_of_rxData_last hf ha fly st ok room last
  simp only [Handle.storeByte, last] at read
  exact read

/-- Settles O29, by the outcome of the link-quality read. -/
theorem linkQualityAnswer : Obligations.LinkQualityAnswer := fun _ _ _ hf ha fly st =>
  ⟨exec_issues_of_failed hf ha fly (by rw [st]; rfl) (by simp [st]), exec_issues_of_rxLq hf ha fly st⟩

/-- Settles O30, by the outcome of the signal-strength read. -/
theorem signalStrengthAnswer : Obligations.SignalStrengthAnswer := fun _ _ _ hf ha fly st =>
  ⟨exec_issues_of_failed hf ha fly (by rw [st]; rfl) (by simp [st]), exec_issues_of_rxSs hf ha fly st⟩

/-! ## The completion -/

/-- The fields at the end of a session, field by field (R150): a failure of the re-enable write counts only if it is the
first, and then its phase is 7 (R188). -/
theorem completed_eq_of_rxEnable {h : Handle} (st : h.st = .rxEnable) (ok : Bool) :
    let e : Status := if ok = false ∧ h.err = .ok then .busError else h.err
    let ph : BitVec 3 := if ok = false ∧ h.err = .ok then 7#3 else h.errPhase
    h.completed ok = { h with
      rxEnableOk := ok, err := e, errPhase := ph, rxCode := e.code, rxErrPhase := ph, inProgress := false,
      st := .idle } := by
  by_cases first : ok = false ∧ h.err = .ok
  · simp [Handle.completed, Handle.recordError, first, st, St.code]
  · cases ok <;> simp_all [Handle.completed, Handle.recordError]

/-- Settles O31: in RX_ENABLE the answer of either outcome runs `completeSession`. -/
theorem enableAnswerCompletesSession : Obligations.EnableAnswerCompletesSession := by
  intro i s a hf ha fly st
  rw [exec_frame_eq_taken hf ha fly, responseRule_rxEnable (by exact st), completeSession,
    completed_eq_of_rxEnable (by exact st)]
  rfl

end Sys2Proof.Machine
end

section
/-! SUPPORT. Runs: several steps in a row, the waiting block (R157), and the step of an answer in a state of the
invariants. -/

namespace Sys2Proof.Machine

/-! ## Runs -/

/-- A run goes on from where a shorter one ends. -/
theorem run_add {k m : Nat} {s t : State} (h : run k s = .next t) : run (k + m) s = run m t := by
  induction k generalizing s with
  | zero => rw [Nat.zero_add, Host.Outcome.next.inj h]
  | succ k ih =>
    cases hs : step s with
    | next u =>
      rw [Nat.succ_add, run_succ hs]
      exact ih ((run_succ hs).symm.trans h)
    | fault r => simp [run, Host.Core.run, show Sys2Proof.core.step s = .fault r from hs] at h
    | refused r => simp [run, Host.Core.run, show Sys2Proof.core.step s = .refused r from hs] at h

/-- A run of one step. -/
theorem run_one {s t : State} (h : step s = .next t) : run 1 s = .next t := run_succ h

/-! ## The waiting block -/

/-- An event that is no answer and no reset. -/
def Input.isCommandOrTake (e : Input) : Prop := (∃ w, e = .command w) ∨ e = .takeResponse

/-- The block is the same in both states: its fields, the transactions issued and the accesses answered. -/
def State.blockUnmoved (s t : State) : Prop := t.h = s.h ∧ t.bus = s.bus ∧ t.accesses = s.accesses

/-- A command word leaves a busy block alone (R120). -/
theorem blockUnmoved_of_commanded {w : CommandWord} {s t : State} (hc : Commanded w s t) (busy : s.h.st ≠ .idle) :
    s.blockUnmoved t ∧ t.inputs = s.inputs := by
  cases hc with
  | illegal | busy => exact ⟨⟨rfl, rfl, rfl⟩, rfl⟩
  | register _ _ idle | session _ idle => exact absurd idle busy

/-- A busy block takes a command word or the client's take in a step that leaves it alone; with no event it waits. -/
theorem step_of_busy {s : State} (busy : s.h.st ≠ .idle) (quiet : ∀ e ∈ s.inputs, e.isCommandOrTake) :
    ∃ t, step s = .next t ∧ s.blockUnmoved t ∧ ∀ e ∈ t.inputs, e.isCommandOrTake := by
  match hin : s.inputs with
  | [] => exact ⟨s, step_of_no_input hin, ⟨rfl, rfl, rfl⟩, quiet⟩
  | e :: rest =>
    have later : ∀ e ∈ rest, e.isCommandOrTake := fun e he => quiet e (by rw [hin]; exact .tail _ he)
    obtain ⟨w, rfl⟩ | rfl := quiet e (by rw [hin]; exact .head _)
    · obtain ⟨t, ht, hc⟩ := exec_decodeCommand w { s with inputs := rest }
      obtain ⟨same, left⟩ := blockUnmoved_of_commanded hc busy
      exact ⟨t, (step_of_command hin).trans ht, same, left ▸ later⟩
    · exact ⟨_, step_of_take hin, ⟨rfl, rfl, rfl⟩, later⟩

/-- Settles O39, by induction on the number of steps. -/
theorem onlyAnswersMoveABusyBlock : Obligations.OnlyAnswersMoveABusyBlock := by
  intro k
  induction k with
  | zero => exact fun s _ _ => ⟨s, rfl, rfl, rfl, rfl⟩
  | succ k ih =>
    intro s busy quiet
    obtain ⟨u, hu, ⟨uh, ubus, uacc⟩, uquiet⟩ := step_of_busy busy quiet
    obtain ⟨t, ht, th, tbus, tacc⟩ := ih u (uh ▸ busy) uquiet
    exact ⟨t, (run_succ hu).trans ht, th.trans uh, tbus.trans ubus, tacc.trans uacc⟩

/-! ## The step of an answer -/

/-- Every step keeps every invariant. -/
theorem stateInv_step {s t : State} (hi : s.Inv) (h : step s = .next t) : t.Inv := by
  obtain ⟨inv, drain, tx⟩ := hi
  exact ⟨inv_step inv h, drainInv_step inv drain h, transactionInv_step tx h⟩

theorem State.Inv.inflight_of_busy {s : State} (hi : s.Inv) (busy : s.h.st ≠ .idle) : s.h.inflight = true := by
  obtain ⟨⟨fly, -⟩, -, -⟩ := hi
  exact fly.mpr busy

theorem State.Inv.pendOp_of_inSession {s : State} (hi : s.Inv) (opened : s.h.st.inSession = true) :
    s.h.pendOp = 0x5#4 := by
  obtain ⟨-, -, session, -⟩ := hi
  exact (session opened).1

/-- The state with an answer presented to the frame in flight (log entry 6). -/
def State.presented (s : State) (a : Answer) (rest : List Input) : State :=
  { s with inputs := rest, answer := some a }

/-- A busy block takes an answer by running the bus frame in flight (R194 (b), R196). -/
theorem step_eq_exec_presented {s : State} {a : Answer} {rest : List Input} (hi : s.Inv) (busy : s.h.st ≠ .idle)
    (hin : s.inputs = .answer a :: rest) : ∃ i, i.isFrame = true ∧ step s = exec i (s.presented a rest) := by
  have tx : s.TransactionInv := hi.2.2
  obtain ⟨i, hd⟩ := decodeFrame_txBytes_ok tx busy
  exact ⟨i, isFrame_of_decodeFrame hd, step_of_answer hin (hi.inflight_of_busy busy) hd⟩

end Sys2Proof.Machine
end

section
/-! SUPPORT. The bound on the answers of a session (R151, R155, R198): each answer before the last brings the completion
nearer, and the last is that of the re-enable write. -/

namespace Sys2Proof.Machine

/-- The most answers a session still takes: the disable write, the length, at most 127 data bytes, the two quality bytes
and the re-enable write (R155). -/
def Handle.answersLeft (h : Handle) : Nat :=
  match h.st with
  | .idle | .regBusy => 0
  | .rxEnable => 1
  | .rxSs => 2
  | .rxLq => 3
  | .rxData => 3 + (h.frameLength.toNat - h.idx.toNat)
  | .rxLen => 131
  | .rxDisable => 132

theorem answersLeft_le {h : Handle} (hi : h.Inv) : h.answersLeft ≤ 132 := by
  obtain ⟨-, -, ⟨hdata, -⟩, -⟩ := hi
  cases st : h.st with
  | rxData => have := hdata st; simp only [Handle.answersLeft, st]; omega
  | _ => simp [Handle.answersLeft, st]

theorem answersLeft_pos {h : Handle} (opened : h.st.inSession = true) : 0 < h.answersLeft := by
  cases st : h.st with
  | idle | regBusy => simp [st, St.inSession] at opened
  | _ => simp [Handle.answersLeft, st]

/-- Every answer of a session leaves fewer to come. -/
theorem answersLeft_answerEffect_lt {a : Answer} {s v : State} {x : St} (hi : s.h.Inv) (st : s.h.st = x)
    (opened : x.inSession = true) (hv : AnswerEffect a s x v) : v.h.answersLeft < s.h.answersLeft := by
  obtain ⟨-, -, ⟨hdata, -⟩, -⟩ := hi
  rw [st] at hdata
  cases hv with
  | registerDone => simp [St.inSession] at opened
  | failed _ notLast =>
    have enable : (failSession .busError s).h.answersLeft = 1 := rfl
    rw [enable]
    cases x with
    | idle | regBusy => simp [St.inSession] at opened
    | rxEnable => exact absurd rfl notLast
    | rxData => have := hdata rfl; simp only [Handle.answersLeft, st]; omega
    | rxDisable | rxLen | rxLq | rxSs => simp [Handle.answersLeft, st]
  | drainStart _ _ fits =>
    simp only [Handle.answersLeft, st, issue_st, issue_frameLength, issue_idx, BitVec.toNat_ofNat]
    omega
  | lastByte => have := hdata rfl; simp only [Handle.answersLeft, st, issue_st]; omega
  | nextByte _ room more =>
    obtain ⟨-, -, below⟩ := hdata rfl
    have up : (s.h.idx + 1#8).toNat = s.h.idx.toNat + 1 := by bv_omega
    simp only [Handle.answersLeft, st, issue_st, issue_frameLength, issue_idx, Handle.storeByte_st,
      Handle.storeByte_frameLength, Handle.storeByte_idx, up]
    omega
  | tooLong | disabled | emptyFrame | lqRead | ssRead | completed => simp [Handle.answersLeft, st]

/-- The session of `s` is over in `t`, and its one response is the completion with the length (R150, R151). -/
def State.completesAt (s t : State) : Prop :=
  t.h.st = .idle ∧ t.h.inProgress = false ∧ t.Inv ∧
    ∃ st : Status, (st = .ok ∨ st = .busError ∨ st = .length) ∧
      t.responses = s.responses ++ [⟨0x5#4, st, t.h.frameLength⟩]

/-- An answer in a session leaves fewer to come, and either is silent and the session goes on, or completes it. -/
theorem step_of_session_answer {s : State} {a : Answer} {rest : List Input} (hi : s.Inv)
    (opened : s.h.st.inSession = true) (hin : s.inputs = .answer a :: rest) :
    ∃ t, step s = .next t ∧ t.Inv ∧ t.inputs = rest ∧ t.h.answersLeft < s.h.answersLeft ∧
      (t.h.st.inSession = true ∧ t.responses = s.responses ∨ s.completesAt t) := by
  have busy : s.h.st ≠ .idle := St.ne_idle_of_inSession opened
  have fly : s.h.inflight = true := hi.inflight_of_busy busy
  have tk : s.takes a := ⟨fly, rest, hin⟩
  obtain ⟨t, ht⟩ := invariantStatesNeverStop s hi (by rintro ⟨no, -⟩; simp [fly] at no)
  have hti : t.Inv := stateInv_step hi ht
  obtain ⟨v, hv, same⟩ := answerEffect_of_step ht tk
  have fewer : t.h.answersLeft < s.h.answersLeft := same.h ▸ answersLeft_answerEffect_lt hi.1 rfl opened hv
  obtain ⟨i, hf, he⟩ := step_eq_exec_presented hi busy hin
  have rule := (exec_frame_eq_taken hf rfl (by exact fly)).symm.trans (he.symm.trans ht)
  refine ⟨t, ht, hti, ?_⟩
  cases concluded_of_responded (responded_of_responseRule rule) with
  | register st => simp [show s.h.st = .regBusy from st, St.inSession] at opened
  | issues x h stays => exact ⟨rfl, fewer, .inl ⟨stays, rfl⟩⟩
  | session st =>
    obtain ⟨-, -, -, range, -⟩ := hti.2.1
    have owed : s.h.pendOp = 0x5#4 := hi.pendOp_of_inSession opened
    refine ⟨rfl, fewer, .inr ⟨rfl, rfl, hti, _, range, ?_⟩⟩
    simp [State.taken, State.presented, owed]

/-- A session that gets as many answers as it can take completes. -/
theorem run_completes_of_answersLeft_le (m : Nat) : ∀ (s : State) (answers : List Answer) (rest : List Input),
    s.Inv → s.h.st.inSession = true → s.h.answersLeft ≤ m → m ≤ answers.length →
    s.inputs = answers.map Input.answer ++ rest → ∃ k ≤ m, ∃ t, run k s = .next t ∧ s.completesAt t := by
  induction m with
  | zero => exact fun s _ _ _ opened none => absurd (answersLeft_pos opened) (by omega)
  | succ m ih =>
    intro s answers rest hi opened left enough hin
    match answers, enough with
    | a :: answers, enough =>
      obtain ⟨u, hu, hui, uin, fewer, ⟨stays, silent⟩ | done⟩ := step_of_session_answer hi opened hin
      · obtain ⟨k, hk, t, ht, idle, closed, hti, st, range, emit⟩ :=
          ih u answers rest hui stays (by omega) (by simpa using enough) uin
        exact ⟨k + 1, by omega, t, (run_succ hu).trans ht, idle, closed, hti, st, range, silent ▸ emit⟩
      · exact ⟨1, by omega, u, run_one hu, done⟩

/-- Settles O55: an open session is in one of its states, and never takes more than 132 answers. -/
theorem answeredSessionsComplete : Obligations.AnsweredSessionsComplete := by
  intro s answers rest hi opened enough hin
  have inv : s.h.Inv := hi.1
  exact run_completes_of_answersLeft_le 132 s answers rest hi (inv.2.1.mp opened) (answersLeft_le inv) enough hin

end Sys2Proof.Machine
end

section
/-! SUPPORT. A session from its start to its end (R140, R155): what the block holds and has issued after each answer,
relative to the idle state the session starts from. -/

namespace Sys2Proof.Machine

/-! ## The fields of a session -/

/-- The fields with the four that describe the current transaction (R29) blanked. -/
def Handle.sessionFields (h : Handle) : Handle :=
  { h with txbuf := #v[0#8, 0#8, 0#8], txlen := 0#2, rxn := 0#1, inflight := false }

/-- An issue leaves the fields it is given, the transaction's apart (R195). -/
theorem sessionFields_of_issued {s t : State} {h : Handle} {x : Transaction} (hi : s.issued h x t) :
    t.h.sessionFields = h.sessionFields := by
  obtain ⟨-, -, -, -, -, fields, -⟩ := hi
  rw [fields]
  rfl

/-- The ports an issue does not use (R195). -/
theorem ports_of_issued {s t : State} {h : Handle} {x : Transaction} (hi : s.issued h x t) :
    t.params = s.params ∧ t.inputs = s.inputs ∧ t.responses = s.responses := by
  obtain ⟨-, -, -, -, -, -, ports⟩ := hi
  rw [ports]
  exact ⟨rfl, rfl, rfl⟩

theorem bus_of_issued {s t : State} {h : Handle} {x : Transaction} (hi : s.issued h x t) : t.bus = s.bus ++ [x] := by
  obtain ⟨-, -, -, -, bus, -⟩ := hi
  exact bus

theorem sessionFields_completed (h : Handle) (ok : Bool) :
    (h.completed ok).sessionFields = h.sessionFields.completed ok := by
  cases ok
  · unfold Handle.completed Handle.recordError
    by_cases he : h.err = .ok <;> simp [he, Handle.sessionFields]
  · rfl

/-- A session that `s` opened is at `t`: the fields are `g`, the transactions `xs` have been issued, the events `rest` are
to come, and no response has been emitted. -/
structure Underway (s : State) (g : Handle) (xs : List Transaction) (rest : List Input) (t : State) : Prop where
  inv : t.Inv
  fields : t.h.sessionFields = g
  bus : t.bus = s.bus ++ xs
  responses : t.responses = s.responses
  params : t.params = s.params
  inputs : t.inputs = rest

/-- A session that `s` opened has ended at `t` with the fields `g` and its one response (R150, R151). -/
structure Ended (s : State) (g : Handle) (xs : List Transaction) (rest : List Input) (t : State) : Prop where
  fields : t.h.sessionFields = g
  inflight : t.h.inflight = false
  bus : t.bus = s.bus ++ xs
  responses : t.responses = s.responses ++ [⟨0x5#4, g.err, g.frameLength⟩]
  inputs : t.inputs = rest

/-! ## The steps of a session -/

/-- The fields a session starts with (R141). -/
def Handle.opened (h : Handle) : Handle :=
  { h.sessionFields with
    inProgress := true, frameLength := 0xFF#8, pendOp := 0x5#4, err := .ok, errPhase := 0#3, idx := 0#8,
    st := .rxDisable }

/-- A session's start meets every invariant, whatever the idle state was. -/
theorem inv_startSession (s : State) : (startSession s).Inv :=
  ⟨by simp [startSession, Handle.Inv, St.inSession], by simp [startSession, Handle.DrainInv],
    transactionInv_issue rfl rfl rfl (bbWrite_length_le _ _)⟩

theorem step_opens_session {s : State} {w : CommandWord} {rest : List Input} (idle : s.h.st = .idle)
    (rx : wordOp w = 0x5#4) (hin : s.inputs = .command w :: rest) :
    ∃ t, step s = .next t ∧ Underway s s.h.opened [bbWrite s.params s.params.bbDisable] rest t := by
  refine ⟨startSession { s with inputs := rest }, ?_, inv_startSession _, rfl, rfl, rfl, rfl, rfl⟩
  rw [step_of_command hin, decodeCommand_eq_rx rx]
  exact congrArg Host.Outcome.next (acceptCommand_idle _ _ _ (by exact idle))

section
variable {s t : State} {g : Handle} {xs : List Transaction} {a : Answer} {rest : List Input}

theorem Underway.st {x : St} (hu : Underway s g xs rest t) (st : g.st = x) : t.h.st = x :=
  (congrArg Handle.st hu.fields).trans st

/-- An answer that makes the bus frame in flight issue `x` with the fields `h` takes the session on. -/
theorem Underway.step_issues {h : Handle} {x : Transaction} (hu : Underway s g xs (.answer a :: rest) t)
    (busy : t.h.st ≠ .idle)
    (issues : ∀ i, i.isFrame = true → (t.presented a rest).h.inflight = true →
      ∃ v, exec i (t.presented a rest) = .next v ∧ ((t.presented a rest).answered i a).issued h x v) :
    ∃ v, step t = .next v ∧ Underway s h.sessionFields (xs ++ [x]) rest v := by
  obtain ⟨i, hf, he⟩ := step_eq_exec_presented hu.inv busy hu.inputs
  obtain ⟨v, hv, hi⟩ := issues i hf (hu.inv.inflight_of_busy busy)
  have hstep : step t = .next v := he.trans hv
  obtain ⟨params, inputs, responses⟩ := ports_of_issued hi
  refine ⟨v, hstep, stateInv_step hu.inv hstep, sessionFields_of_issued hi, ?_, responses.trans hu.responses,
    params.trans hu.params, inputs⟩
  rw [bus_of_issued hi, ← List.append_assoc, ← hu.bus]
  rfl

/-- A failed transaction before RX_ENABLE is followed by the re-enable write (R142, R149). -/
theorem Underway.step_fails (hu : Underway s g xs (.answer a :: rest) t) (opened : g.st.inSession = true)
    (notLast : g.st ≠ .rxEnable) (bad : a.ok = false) :
    ∃ v, step t = .next v ∧ Underway s (g.failed .busError) (xs ++ [bbWrite s.params s.params.bbEnable]) rest v := by
  have st : t.h.st = g.st := hu.st rfl
  rw [← st] at opened notLast
  rw [← hu.fields, ← hu.params]
  exact hu.step_issues (St.ne_idle_of_inSession opened) fun i hf fly =>
    exec_issues_of_failed hf rfl fly opened notLast bad

theorem Underway.step_rxDisable (hu : Underway s g xs (.answer a :: rest) t) (st : g.st = .rxDisable)
    (ok : a.ok = true) :
    ∃ v, step t = .next v ∧ Underway s { g with st := .rxLen } (xs ++ [fifoRead (fifoLenAddr s.params)]) rest v := by
  rw [← hu.fields, ← hu.params]
  exact hu.step_issues (by simp [hu.st st]) fun i hf fly => exec_issues_of_rxDisable hf rfl fly (hu.st st) ok

theorem Underway.step_rxLen_long (hu : Underway s g xs (.answer a :: rest) t) (st : g.st = .rxLen)
    (ok : a.ok = true) (long : 127 < a.rx.toNat) :
    ∃ v, step t = .next v ∧ Underway s ({ g with frameLength := a.rx }.failed .length)
      (xs ++ [bbWrite s.params s.params.bbEnable]) rest v := by
  rw [← hu.fields, ← hu.params]
  exact hu.step_issues (by simp [hu.st st]) fun i hf fly => exec_issues_of_rxLen_long hf rfl fly (hu.st st) ok long

theorem Underway.step_rxLq (hu : Underway s g xs (.answer a :: rest) t) (st : g.st = .rxLq) (ok : a.ok = true) :
    ∃ v, step t = .next v ∧ Underway s { g with linkQuality := a.rx, st := .rxSs }
      (xs ++ [fifoRead (fifoSsAddr s.params g.frameLength)]) rest v := by
  rw [← hu.fields, ← hu.params]
  exact hu.step_issues (by simp [hu.st st]) fun i hf fly => exec_issues_of_rxLq hf rfl fly (hu.st st) ok

theorem Underway.step_rxSs (hu : Underway s g xs (.answer a :: rest) t) (st : g.st = .rxSs) (ok : a.ok = true) :
    ∃ v, step t = .next v ∧ Underway s { g with signalStrength := a.rx, st := .rxEnable }
      (xs ++ [bbWrite s.params s.params.bbEnable]) rest v := by
  rw [← hu.fields, ← hu.params]
  exact hu.step_issues (by simp [hu.st st]) fun i hf fly => exec_issues_of_rxSs hf rfl fly (hu.st st) ok

/-- The answer to the re-enable write ends the session, whatever it is (R150). -/
theorem Underway.step_ends (hu : Underway s g xs (.answer a :: rest) t) (st : g.st = .rxEnable) :
    ∃ v, step t = .next v ∧ Ended s (g.completed a.ok) xs rest v := by
  have here : t.h.st = .rxEnable := hu.st st
  have busy : t.h.st ≠ .idle := by simp [here]
  have owed : t.h.pendOp = 0x5#4 := hu.inv.pendOp_of_inSession (by rw [here]; rfl)
  obtain ⟨i, hf, he⟩ := step_eq_exec_presented hu.inv busy hu.inputs
  rw [exec_frame_eq_taken (s := t.presented a rest) hf rfl (hu.inv.inflight_of_busy busy),
    responseRule_rxEnable (by exact here)] at he
  have fields : (completeSession a ((t.presented a rest).taken i a)).h.sessionFields = g.completed a.ok := by
    rw [completeSession_h, sessionFields_completed, ← hu.fields]
    rfl
  refine ⟨_, he, fields, by simp [State.taken], hu.bus, ?_, rfl⟩
  rw [← fields, ← hu.responses, ← owed]
  simp [Handle.sessionFields, State.taken, State.presented]

end

/-! ## The drain -/

/-- The frame buffer with the bytes `data` at its start (R27, R156). -/
def storeData (buf : Vector Byte 127) (data : List Byte) : Vector Byte 127 :=
  Vector.ofFn fun j => data[j.val]?.getD buf[j.val]

theorem getElem_storeData (buf : Vector Byte 127) (data : List Byte) (j : Nat) (hj : j < 127) :
    (storeData buf data)[j] = data[j]?.getD buf[j] := by
  simp [storeData]

theorem storeData_nil (buf : Vector Byte 127) : storeData buf [] = buf := by
  ext j hj
  simp [getElem_storeData]

/-- Storing the next byte at the index extends the bytes stored (R146). -/
theorem setIfInBounds_storeData (buf : Vector Byte 127) (data : List Byte) (b : Byte) :
    (storeData buf data).setIfInBounds data.length b = storeData buf (data ++ [b]) := by
  apply Vector.ext
  intro j hj
  rw [Vector.getElem_setIfInBounds, getElem_storeData, getElem_storeData]
  obtain below | rfl | above := Nat.lt_trichotomy j data.length
  · simp [below, below.ne', List.getElem?_append_left below]
  · simp
  · simp [above.ne, List.getElem?_eq_none (show data.length ≤ j by omega),
      List.getElem?_eq_none (show (data ++ [b]).length ≤ j by simpa using above)]

/-- The state of a session of length `n` with `k` data bytes stored (R144, R146). -/
def drainState (k : Nat) (n : Byte) : St := if k = n.toNat then .rxLq else .rxData

/-- The fields of a session that `h` opened, in state `x`, with the length `n` read and the bytes `data` stored. -/
def Handle.drained (h : Handle) (x : St) (data : List Byte) (n : Byte) : Handle :=
  { h.opened with
    frameLength := n, frameBuffer := storeData h.frameBuffer data, idx := BitVec.ofNat 8 data.length, st := x }

theorem drainTransactions_succ (p : Params) (n : Nat) :
    drainTransactions p (n + 1) = drainTransactions p n ++ [fifoRead (fifoDataAddr p (BitVec.ofNat 8 n))] := by
  simp [drainTransactions, dataReads, List.range_succ]

theorem drained_nil (h : Handle) (x : St) (n : Byte) :
    h.drained x [] n = { h.opened with frameLength := n, st := x } := by
  rw [Handle.drained, storeData_nil]
  rfl

/-- Storing a byte of the drain (R146). -/
theorem storeByte_drained {h : Handle} {data : List Byte} (room : data.length < 127) (x y : St) (n b : Byte) :
    { (h.drained x data n).storeByte b with st := y } = h.drained y (data ++ [b]) n := by
  have at_idx : (BitVec.ofNat 8 data.length).toNat = data.length := by rw [BitVec.toNat_ofNat]; omega
  simp [Handle.drained, Handle.storeByte, at_idx, setIfInBounds_storeData, BitVec.ofNat_add]

/-- The length read leads to the drain or past it; either way its next read is at the base (R144). -/
theorem Underway.step_rxLen {s t : State} {xs : List Transaction} {n : Byte} {rest : List Input}
    (hu : Underway s { s.h.opened with st := .rxLen } xs (.answer ⟨true, n⟩ :: rest) t) (fits : n.toNat ≤ 127) :
    ∃ v, step t = .next v ∧ Underway s (s.h.drained (drainState 0 n) [] n)
      (xs ++ [fifoRead (fifoDataAddr s.params 0#8)]) rest v := by
  have st : t.h.st = .rxLen := hu.st rfl
  have busy : t.h.st ≠ .idle := by simp [st]
  by_cases zero : n = 0#8
  · subst zero
    have fields : { t.h.sessionFields with frameLength := 0#8, st := .rxLq } = s.h.drained .rxLq [] 0#8 := by
      rw [drained_nil, hu.fields]
    rw [show drainState 0 0#8 = .rxLq from rfl, ← fields, ← hu.params]
    exact hu.step_issues busy fun i hf fly => exec_issues_of_rxLen_zero hf rfl fly st rfl rfl
  · have pos : drainState 0 n = .rxData := if_neg fun e => zero (BitVec.eq_of_toNat_eq e.symm)
    have fields : { t.h.sessionFields with frameLength := n, idx := 0#8, st := .rxData } =
        s.h.drained .rxData [] n := by
      rw [drained_nil, hu.fields]
      rfl
    rw [pos, ← fields, ← hu.params]
    exact hu.step_issues busy fun i hf fly => exec_issues_of_rxLen_drain hf rfl fly st rfl zero fits

/-- A data byte of the drain is stored, and the next read follows (R146). -/
theorem Underway.step_rxData {s t : State} {xs : List Transaction} {n b : Byte} {data : List Byte} {rest : List Input}
    (hu : Underway s (s.h.drained .rxData data n) xs (.answer ⟨true, b⟩ :: rest) t) (fits : n.toNat ≤ 127)
    (more : data.length < n.toNat) :
    ∃ v, step t = .next v ∧ Underway s (s.h.drained (drainState (data.length + 1) n) (data ++ [b]) n)
      (xs ++ [fifoRead (fifoDataAddr s.params (BitVec.ofNat 8 (data.length + 1)))]) rest v := by
  have st : t.h.st = .rxData := hu.st rfl
  have busy : t.h.st ≠ .idle := by simp [st]
  have idx : t.h.idx = BitVec.ofNat 8 data.length := congrArg Handle.idx hu.fields
  have len : t.h.frameLength = n := congrArg Handle.frameLength hu.fields
  have room : t.h.idx.toNat < 127 := by rw [idx, BitVec.toNat_ofNat]; omega
  have next : t.h.idx + 1#8 = BitVec.ofNat 8 (data.length + 1) := by simp [idx, BitVec.ofNat_add]
  have stored (x : St) : { (t.h.storeByte b).sessionFields with st := x } = s.h.drained x (data ++ [b]) n := by
    rw [← storeByte_drained (by omega) .rxData, ← hu.fields]
    rfl
  rw [← next, ← hu.params]
  by_cases last : data.length + 1 = n.toNat
  · have reached : t.h.idx + 1#8 = t.h.frameLength := by rw [next, len, last, BitVec.ofNat_toNat, BitVec.setWidth_eq]
    rw [drainState, if_pos last, ← stored, reached]
    exact hu.step_issues busy fun i hf fly => exec_issues_of_rxData_last hf rfl fly st rfl room reached
  · have below : t.h.idx + 1#8 ≠ t.h.frameLength := by
      rw [next, len]
      intro e
      have := congrArg BitVec.toNat e
      rw [BitVec.toNat_ofNat] at this
      omega
    rw [drainState, if_neg last, ← stored, ← st]
    exact hu.step_issues busy fun i hf fly => exec_issues_of_rxData_more hf rfl fly st rfl room below

end Sys2Proof.Machine
end

section
/-! SUPPORT. Whole sessions (R151, R155, R156): the steps from the acceptance of RX through the drain, and from a failure
to the completion. -/

namespace Sys2Proof.Machine

/-- Two runs one after the other. -/
theorem run_trans {k m n : Nat} {s t u : State} (h : run k s = .next t) (h' : run m t = .next u)
    (total : k + m = n := by omega) : run n s = .next u :=
  total ▸ (run_add h).trans h'

/-! ## The events and the transactions of a session -/

theorem sessionTransactions_eq (p : Params) (n : Nat) :
    sessionTransactions p n = drainTransactions p (n + 1) ++ [fifoRead (fifoSsAddr p (BitVec.ofNat 8 n))] ++
      [bbWrite p p.bbEnable] := by
  simp [sessionTransactions, drainTransactions_succ]

theorem sessionTransactions_length (p : Params) (n : Nat) : (sessionTransactions p n).length = n + 5 := by
  simp [sessionTransactions, drainTransactions, dataReads]

theorem okAnswers_append (xs ys : List Byte) (rest : List Input) :
    okAnswers (xs ++ ys) ++ rest = okAnswers xs ++ (okAnswers ys ++ rest) := by
  simp [okAnswers]

/-! ## From the acceptance of RX through the drain -/

/-- The drain takes the data bytes one by one (R146). -/
theorem run_drain {s : State} {n : Byte} (fits : n.toNat ≤ 127) (rest : List Input) (more : List Byte) :
    ∀ (data : List Byte) (t : State), (data ++ more).length ≤ n.toNat →
      Underway s (s.h.drained (drainState data.length n) data n) (drainTransactions s.params (data.length + 1))
        (okAnswers more ++ rest) t →
      ∃ v, run more.length t = .next v ∧
        Underway s (s.h.drained (drainState (data ++ more).length n) (data ++ more) n)
          (drainTransactions s.params ((data ++ more).length + 1)) rest v := by
  induction more with
  | nil => exact fun data t _ hu => ⟨t, rfl, by simpa [okAnswers] using hu⟩
  | cons b more ih =>
    intro data t enough hu
    have below : data.length < n.toNat := by simp at enough; omega
    rw [show drainState data.length n = .rxData from if_neg below.ne] at hu
    obtain ⟨u, hstep, hu'⟩ := hu.step_rxData fits below
    rw [← drainTransactions_succ] at hu'
    obtain ⟨v, hrun, hv⟩ := ih (data ++ [b]) u (by simpa using enough) (by simpa [okAnswers] using hu')
    exact ⟨v, (run_succ hstep).trans hrun, by simpa using hv⟩

section
variable {s : State} {w : CommandWord} {x : Byte} {rest : List Input} (idle : s.h.st = .idle) (rx : wordOp w = 0x5#4)
include idle rx

/-- A session whose disable write succeeds reads the length (R141, R143). -/
theorem run_to_length_read (hin : s.inputs = .command w :: .answer ⟨true, x⟩ :: rest) :
    ∃ t, run 2 s = .next t ∧ Underway s { s.h.opened with st := .rxLen }
      [bbWrite s.params s.params.bbDisable, fifoRead (fifoLenAddr s.params)] rest t := by
  obtain ⟨u, hu, started⟩ := step_opens_session idle rx hin
  obtain ⟨t, ht, reading⟩ := started.step_rxDisable rfl rfl
  exact ⟨t, run_trans (run_one hu) (run_one ht), reading⟩

/-- A session of length `n` that has read the bytes `data` reads the next one, or the link-quality byte (R155). -/
theorem run_to_drained {n : Byte} {data : List Byte} (fits : n.toNat ≤ 127) (enough : data.length ≤ n.toNat)
    (hin : s.inputs = .command w :: .answer ⟨true, x⟩ :: .answer ⟨true, n⟩ :: (okAnswers data ++ rest)) :
    ∃ t, run (data.length + 3) s = .next t ∧
      Underway s (s.h.drained (drainState data.length n) data n) (drainTransactions s.params (data.length + 1))
        rest t := by
  obtain ⟨u, hu, reading⟩ := run_to_length_read idle rx hin
  obtain ⟨v, hv, drain⟩ := reading.step_rxLen fits
  obtain ⟨t, ht, drained⟩ := run_drain fits rest data [] v enough drain
  exact ⟨t, run_trans (run_trans hu (run_one hv) rfl) ht, drained⟩

/-- A session that has read all its data bytes reads the link-quality byte (R146, R155). -/
theorem run_to_link_quality_read {data : List Byte} (fits : data.length ≤ 127)
    (hin : s.inputs = .command w :: .answer ⟨true, x⟩ :: .answer ⟨true, BitVec.ofNat 8 data.length⟩ ::
      (okAnswers data ++ rest)) :
    ∃ t, run (data.length + 3) s = .next t ∧
      Underway s (s.h.drained .rxLq data (BitVec.ofNat 8 data.length))
        (drainTransactions s.params (data.length + 1)) rest t := by
  have len : (BitVec.ofNat 8 data.length).toNat = data.length := by rw [BitVec.toNat_ofNat]; omega
  have drained := run_to_drained idle rx (by omega) len.ge hin
  rwa [drainState, if_pos len.symm] at drained

/-- A session whose reads all succeed has the re-enable write in flight, the last of its transactions (R148, R155). -/
theorem run_to_enable_write {data : List Byte} {lq ss : Byte} (fits : data.length ≤ 127)
    (hin : s.inputs = .command w :: .answer ⟨true, x⟩ :: .answer ⟨true, BitVec.ofNat 8 data.length⟩ ::
      (okAnswers (data ++ [lq, ss]) ++ rest)) :
    ∃ t, run (data.length + 5) s = .next t ∧
      Underway s
        { s.h.drained .rxLq data (BitVec.ofNat 8 data.length) with
          linkQuality := lq, signalStrength := ss, st := .rxEnable }
        (sessionTransactions s.params data.length) rest t := by
  rw [okAnswers_append] at hin
  obtain ⟨u, hu, drained⟩ := run_to_link_quality_read idle rx fits hin
  obtain ⟨v, hv, lqRead⟩ := drained.step_rxLq rfl rfl
  obtain ⟨t, ht, ssRead⟩ := lqRead.step_rxSs rfl rfl
  rw [sessionTransactions_eq]
  exact ⟨t, run_trans hu (run_trans (run_one hv) (run_one ht) rfl), ssRead⟩

end

/-! ## From a failure to the completion -/

/-- The fields of a session that fails in the state of `h` with `code`, its re-enable write answered `ok` (R150, R186). -/
def Handle.abandoned (h : Handle) (code : Status) (ok : Bool) : Handle :=
  { h with
    st := .idle, inProgress := false, err := code, errPhase := h.st.code, rxCode := code.code,
    rxErrPhase := h.st.code, rxEnableOk := ok }

/-- The first error is the session's, whatever the re-enable write's outcome (R188). -/
theorem completed_failed_eq_abandoned {h : Handle} (clean : h.err = .ok) {code : Status} (hc : code ≠ .ok)
    (ok : Bool) :
    (h.failed code).completed ok = h.abandoned code ok := by
  cases ok <;> simp [Handle.completed, Handle.recordError, Handle.failed, Handle.abandoned, clean, hc]

/-- A failure of the re-enable write alone is the session's first error (R150). -/
theorem completed_false_eq_abandoned {h : Handle} (clean : h.err = .ok) :
    h.completed false = h.abandoned .busError false := by
  simp [Handle.completed, Handle.recordError, Handle.abandoned, clean]

/-- A session that fails at a transaction ends with the answer to the re-enable write (R149, R187). -/
theorem Underway.run_fails {s t : State} {g : Handle} {xs : List Transaction} {y z : Byte} {e : Bool}
    {rest : List Input} (hu : Underway s g xs (.answer ⟨false, y⟩ :: .answer ⟨e, z⟩ :: rest) t)
    (opened : g.st.inSession = true) (notLast : g.st ≠ .rxEnable) (clean : g.err = .ok) :
    ∃ v, run 2 t = .next v ∧
      Ended s (g.abandoned .busError e) (xs ++ [bbWrite s.params s.params.bbEnable]) rest v := by
  obtain ⟨u, hstep, cleanup⟩ := hu.step_fails opened notLast rfl
  obtain ⟨v, hlast, ended⟩ := cleanup.step_ends rfl
  rw [completed_failed_eq_abandoned clean (by decide)] at ended
  exact ⟨v, run_trans (run_one hstep) (run_one hlast), ended⟩

section
variable {s t : State} {g : Handle} {xs : List Transaction} {rest : List Input}

theorem Ended.field {α : Type} (he : Ended s g xs rest t) (f : Handle → α) : f t.h.sessionFields = f g :=
  congrArg f he.fields

/-- A session that ends with the bytes `data` stored has every byte past them as it was (R27, R156). -/
theorem Ended.frameBuffer {data : List Byte} (he : Ended s g xs rest t)
    (stored : g.frameBuffer = storeData s.h.frameBuffer data) (j : Nat) (hj : j < 127) :
    t.h.frameBuffer[j] = data[j]?.getD s.h.frameBuffer[j] := by
  have buf : t.h.frameBuffer = storeData s.h.frameBuffer data := (he.field Handle.frameBuffer).trans stored
  rw [buf, getElem_storeData]

variable {code : Status} {ok : Bool}

/-- What a failed session tells: its first error and the state of it, the outcome of the re-enable write, and the frame as
far as it was read (R150, R156). -/
theorem Ended.report (he : Ended s (g.abandoned code ok) xs rest t) :
    t.inputs = rest ∧ t.h.st = .idle ∧ t.h.inProgress = false ∧
      t.h.frameLength = g.frameLength ∧ t.h.frameBuffer = g.frameBuffer ∧ t.h.linkQuality = g.linkQuality ∧
      t.h.signalStrength = g.signalStrength ∧
      t.h.rxCode = code.code ∧ t.h.rxErrPhase = g.st.code ∧ t.h.rxEnableOk = ok ∧
      t.responses = s.responses ++ [⟨0x5#4, code, g.frameLength⟩] ∧ t.bus = s.bus ++ xs :=
  ⟨he.inputs, he.field Handle.st, he.field Handle.inProgress, he.field Handle.frameLength,
    he.field Handle.frameBuffer, he.field Handle.linkQuality,
    he.field Handle.signalStrength, he.field Handle.rxCode, he.field Handle.rxErrPhase,
    he.field Handle.rxEnableOk, he.responses, he.bus⟩

/-- The same of a session that fails with the bytes `data` stored, all others of the frame buffer as they were. -/
theorem Ended.report_stored {data : List Byte} (he : Ended s (g.abandoned code ok) xs rest t)
    (stored : g.frameBuffer = storeData s.h.frameBuffer data) :
    t.inputs = rest ∧ t.h.st = .idle ∧ t.h.inProgress = false ∧
      (∀ (j : Nat) (hj : j < 127), t.h.frameBuffer[j] = data[j]?.getD s.h.frameBuffer[j]) ∧
      t.h.linkQuality = g.linkQuality ∧ t.h.signalStrength = g.signalStrength ∧
      t.h.rxCode = code.code ∧ t.h.rxErrPhase = g.st.code ∧ t.h.rxEnableOk = ok ∧
      t.responses = s.responses ++ [⟨0x5#4, code, g.frameLength⟩] ∧ t.bus = s.bus ++ xs := by
  obtain ⟨inputs, idle, closed, -, -, told⟩ := he.report
  exact ⟨inputs, idle, closed, he.frameBuffer stored, told⟩

end

/-! ## The sessions of the statements -/

/-- Settles O51: the drain of all bytes, the two trailer reads and the re-enable write, each answered with success. -/
theorem successfulSession : Obligations.SuccessfulSession := by
  intro s w data x y lq ss rest idle rx fits hin
  rw [show data ++ [lq, ss, y] = data ++ [lq, ss] ++ [y] by simp, okAnswers_append] at hin
  obtain ⟨t₁, h₁, u₁⟩ := run_to_enable_write idle rx fits hin
  obtain ⟨t, h₂, he⟩ := u₁.step_ends rfl
  exact ⟨t, run_trans h₁ (run_one h₂), he.inputs, he.field Handle.st, he.inflight, he.field Handle.inProgress,
    he.field Handle.frameLength, he.field Handle.idx, he.frameBuffer rfl, he.field Handle.linkQuality,
    he.field Handle.signalStrength, he.field Handle.err, he.field Handle.errPhase, he.field Handle.rxCode,
    he.field Handle.rxErrPhase, he.field Handle.rxEnableOk, he.responses, he.bus, sessionTransactions_length _ _⟩

/-- Settles O52: each session fails at once in the state that takes the answer, and the re-enable write ends it. -/
theorem sessionEndsBeforeDrain : Obligations.SessionEndsBeforeDrain := by
  intro s w x y n e rest idle rx
  refine ⟨fun hin => ?disable, fun hin => ?lengthRead, fun long hin => ?tooLong⟩
  case disable =>
    obtain ⟨t₁, h₁, u₁⟩ := step_opens_session idle rx hin
    obtain ⟨t, h₂, he⟩ := u₁.run_fails rfl (by simp [Handle.opened]) rfl
    exact ⟨t, run_trans (run_one h₁) h₂, he.report⟩
  case lengthRead =>
    obtain ⟨t₁, h₁, u₁⟩ := run_to_length_read idle rx hin
    obtain ⟨t, h₂, he⟩ := u₁.run_fails rfl (by simp) rfl
    exact ⟨t, run_trans h₁ h₂, he.report⟩
  case tooLong =>
    obtain ⟨t₁, h₁, u₁⟩ := run_to_length_read idle rx hin
    obtain ⟨t₂, h₂, u₂⟩ := u₁.step_rxLen_long rfl rfl long
    obtain ⟨t, h₃, he⟩ := u₂.step_ends rfl
    rw [completed_failed_eq_abandoned rfl (by decide)] at he
    exact ⟨t, run_trans h₁ (run_trans (run_one h₂) (run_one h₃) rfl), he.report⟩

/-- Settles O53: the drain of the first bytes, then a failure in RX_DATA. -/
theorem sessionFailsInDrain : Obligations.SessionFailsInDrain := by
  intro s w data n x y z e rest idle rx fits short hin
  obtain ⟨t₁, h₁, u₁⟩ := run_to_drained idle rx fits short.le hin
  rw [drainState, if_neg short.ne] at u₁
  obtain ⟨t, h₂, he⟩ := u₁.run_fails rfl (by simp [Handle.drained]) rfl
  exact ⟨t, run_trans h₁ h₂, he.inputs, he.field Handle.st, he.inflight, he.field Handle.inProgress,
    he.field Handle.frameLength, he.field Handle.idx, he.frameBuffer rfl,
    he.field Handle.linkQuality, he.field Handle.signalStrength, he.field Handle.err,
    he.field Handle.errPhase, he.field Handle.rxCode, he.field Handle.rxErrPhase,
    he.field Handle.rxEnableOk, he.responses, he.bus⟩

/-- Settles O54: the drain of all bytes, then a failure in RX_LQ, RX_SS or RX_ENABLE. -/
theorem sessionFailsAfterDrain : Obligations.SessionFailsAfterDrain := by
  intro s w data x y z lq ss e rest idle rx fits
  refine ⟨fun hin => ?linkQuality, fun hin => ?signalStrength, fun hin => ?enable⟩
  case linkQuality =>
    obtain ⟨t₁, h₁, u₁⟩ := run_to_link_quality_read idle rx fits hin
    rw [drainTransactions_succ] at u₁
    obtain ⟨t, h₂, he⟩ := u₁.run_fails rfl (by simp [Handle.drained]) rfl
    rw [List.append_assoc] at he
    exact ⟨t, run_trans h₁ h₂, he.report_stored rfl⟩
  case signalStrength =>
    rw [okAnswers_append] at hin
    obtain ⟨t₁, h₁, u₁⟩ := run_to_link_quality_read idle rx fits hin
    obtain ⟨t₂, h₂, u₂⟩ := u₁.step_rxLq rfl rfl
    obtain ⟨t, h₃, he⟩ := u₂.run_fails rfl (by simp) rfl
    rw [sessionTransactions_eq]
    exact ⟨t, run_trans h₁ (run_trans (run_one h₂) h₃ rfl), he.report_stored rfl⟩
  case enable =>
    obtain ⟨t₁, h₁, u₁⟩ := run_to_enable_write idle rx fits hin
    obtain ⟨t, h₂, he⟩ := u₁.step_ends rfl
    rw [completed_false_eq_abandoned rfl] at he
    exact ⟨t, run_trans h₁ (run_one h₂), he.report_stored rfl⟩

end Sys2Proof.Machine
end

section
/-! SUPPORT. The received byte that no rule uses (R196): an answer acts by its outcome alone when it is a failure, or
when the transaction in flight receives no byte. -/

namespace Sys2Proof.Machine

/-- The answer to the frame in flight runs the response rule once the ports have taken it (R194 (b), R196). -/
theorem step_answer_eq_taken {s : State} {a : Answer} {rest : List Input} {i : Instr}
    (hin : s.inputs = .answer a :: rest) (fly : s.h.inflight = true) (hd : decodeFrame s.h.txBytes = .ok i) :
    step s = responseRule a ((s.presented a rest).taken i a) :=
  (step_of_answer hin fly hd).trans (exec_frame_eq_taken (isFrame_of_decodeFrame hd) rfl fly)

/-- Two answers to one frame do the same if the access they record and the response rule do not tell them apart. -/
theorem step_answer_congr {s : State} {a b : Answer} (rest : List Input)
    (access : s.h.inflight = true → ∀ i, decodeFrame s.h.txBytes = .ok i → accessesOf i a = accessesOf i b)
    (rule : s.h.inflight = true → ∀ u : State, u.h.st = s.h.st → u.h.rxn = s.h.rxn →
      responseRule a u = responseRule b u) :
    step { s with inputs := .answer a :: rest } = step { s with inputs := .answer b :: rest } := by
  cases fly : s.h.inflight with
  | false =>
    have stops (c : Answer) : step { s with inputs := .answer c :: rest } = .fault .strayAnswer := step_of_stray rfl fly
    rw [stops, stops]
  | true =>
    match hd : decodeFrame s.h.txBytes with
    | .error e =>
      have stops (c : Answer) : step { s with inputs := .answer c :: rest } = .refused .noBusFrame :=
        step_of_no_frame rfl fly hd
      rw [stops, stops]
    | .ok i =>
      have runs (c : Answer) : step { s with inputs := .answer c :: rest } =
          responseRule c ((s.presented c rest).taken i c) := step_answer_eq_taken rfl fly hd
      have ports : (s.presented a rest).taken i a = (s.presented b rest).taken i b := by
        simp only [State.taken, State.answered, State.presented, access fly i hd]
      rw [runs, runs, ports]
      exact rule fly _ rfl rfl

/-- The access of a failed transaction is recorded without a byte (R197). -/
theorem accessesOf_failed_congr (i : Instr) (x y : Byte) : accessesOf i ⟨false, x⟩ = accessesOf i ⟨false, y⟩ := by
  cases i <;> rfl

/-- A frame that receives nothing is a write, and records no received byte (R52, R72). -/
theorem accessesOf_congr_of_receiveCount_zero {i : Instr} (noByte : i.receiveCount = 0#1) (x y : Byte) :
    accessesOf i ⟨true, x⟩ = accessesOf i ⟨true, y⟩ := by
  cases i with
  | frameShortRead | frameLongRead => simp [Instr.receiveCount] at noByte
  | _ => rfl

/-- No response rule uses the byte of a failed answer. -/
theorem responseRule_failed_congr (x y : Byte) (s : State) : responseRule ⟨false, x⟩ s = responseRule ⟨false, y⟩ s := by
  unfold responseRule
  split <;> rfl

/-- The response rules of the states that may have a write in flight use the byte only if one is received (R121, R143,
R150). -/
theorem responseRule_congr_of_rxn_zero {s : State} (noByte : s.h.rxn = 0#1)
    (st : s.h.st = .regBusy ∨ s.h.st = .rxDisable ∨ s.h.st = .rxEnable) (x y : Byte) :
    responseRule ⟨true, x⟩ s = responseRule ⟨true, y⟩ s := by
  obtain st | st | st := st
  · rw [responseRule_regBusy st, responseRule_regBusy st, registerAnswer, registerAnswer]
    simp [answerStatus, answerData, noByte]
  · rw [responseRule_rxDisable st, responseRule_rxDisable st]; rfl
  · rw [responseRule_rxEnable st, responseRule_rxEnable st]; rfl

/-- Under the invariants a transaction that receives nothing is a register command's or a baseband-control write, since
the sequencer's other transactions are reads (R142). -/
theorem State.TransactionInv.st_of_rxn_zero {s : State} (ht : s.TransactionInv) (busy : s.h.st ≠ .idle)
    (noByte : s.h.rxn = 0#1) : s.h.st = .regBusy ∨ s.h.st = .rxDisable ∨ s.h.st = .rxEnable := by
  obtain ⟨session, -⟩ := ht
  have not_read (ad : Addr16) : s.h.transaction ≠ fifoRead ad := fun h => by
    simpa [Handle.transaction, fifoRead, memRead, noByte] using congrArg Transaction.rxn h
  cases st : s.h.st with
  | idle => exact absurd st busy
  | regBusy | rxDisable | rxEnable => simp
  | rxLen | rxData | rxLq | rxSs =>
    obtain ⟨-, tx⟩ := session (by rw [st]; rfl)
    rw [State.sessionTransaction, st] at tx
    exact absurd (Option.some.inj tx) (not_read _)

/-- Under the invariants a busy block has a frame in flight that receives what `h.rxn` says (R29, R76). -/
theorem State.TransactionInv.exists_carries {s : State} (ht : s.TransactionInv) (busy : s.h.st ≠ .idle) :
    ∃ i, s.h.carries i := by
  obtain ⟨session, register⟩ := ht
  cases st : s.h.st with
  | idle => exact absurd st busy
  | regBusy => exact (register st).imp fun _ => And.left
  | _ =>
    obtain ⟨-, tx⟩ := session (by rw [st]; rfl)
    exact (sessionTransaction_isFrameOf tx.symm).imp fun _ => carries_of_transaction

/-- Settles O32: neither the access recorded nor the response rule uses the byte. -/
theorem unusedReceivedByteHasNoEffect : Obligations.UnusedReceivedByteHasNoEffect := by
  intro s x y rest
  refine ⟨?failed, fun ⟨⟨hfly, _⟩, _, ht⟩ noByte => ?received_nothing⟩
  case failed =>
    exact step_answer_congr rest (fun _ i _ => accessesOf_failed_congr i x y) fun _ u _ _ => responseRule_failed_congr x y u
  case received_nothing =>
    refine step_answer_congr rest (fun fly i hd => ?_) fun fly u st rxn => ?_
    · obtain ⟨j, -, hj, count⟩ := ht.exists_carries (hfly.mp fly)
      obtain rfl : j = i := Except.ok.inj (hj.symm.trans hd)
      exact accessesOf_congr_of_receiveCount_zero (count.symm.trans noByte) x y
    · exact responseRule_congr_of_rxn_zero (rxn.trans noByte) (st ▸ ht.st_of_rxn_zero (hfly.mp fly) noByte) x y

end Sys2Proof.Machine
end

section
/-! SUPPORT. A command word and an answer that are both ready (R185): what an answer does to the block does not depend
on the events to come or on the responses already emitted. -/

namespace Sys2Proof.Machine

/-- The state with other events to come and other responses in the channel. -/
def State.withPorts (s : State) (inputs : List Input) (responses : List Response) : State :=
  { s with inputs := inputs, responses := responses }

theorem readNext_withPorts (ins : List Input) (rs : List Response) (s : State) :
    readNext (s.withPorts ins rs) = (readNext s).withPorts ins rs := by
  unfold readNext
  split
  · rw [if_pos (by assumption)]; rfl
  · rw [if_neg (by assumption)]; rfl

theorem rxLenAnswer_withPorts (ins : List Input) (rs : List Response) (a : Answer) (s : State) :
    rxLenAnswer a (s.withPorts ins rs) = (rxLenAnswer a s).withPorts ins rs := by
  unfold rxLenAnswer
  split
  · dsimp only
    split
    · rfl
    · split <;> rfl
  · rfl

/-- The response rule moves the block the same way, whatever the ports hold (R196). -/
theorem responseRule_withPorts {a : Answer} {s t : State} (ins : List Input) (rs : List Response)
    (h : responseRule a s = .next t) :
    ∃ rs', responseRule a (s.withPorts ins rs) = .next (t.withPorts ins rs') := by
  cases responded_of_responseRule h with
  | register st => exact ⟨_, responseRule_regBusy (s := s.withPorts ins rs) st⟩
  | disable st =>
    refine ⟨rs, (responseRule_rxDisable (by exact st)).trans (congrArg _ ?_)⟩
    unfold rxDisableAnswer
    split <;> rfl
  | len st => exact ⟨rs, by rw [responseRule_rxLen (by exact st), rxLenAnswer_withPorts]⟩
  | data st ok room =>
    refine ⟨rs, ?_⟩
    rw [responseRule_rxData (by exact st), rxDataAnswer, if_pos ok, if_pos (by exact room), ← readNext_withPorts]
    rfl
  | dataFailed st ok =>
    refine ⟨rs, ?_⟩
    rw [responseRule_rxData (by exact st), rxDataAnswer, if_neg (by simp [ok])]
    rfl
  | lq st =>
    refine ⟨rs, (responseRule_rxLq (by exact st)).trans (congrArg _ ?_)⟩
    unfold rxLqAnswer
    split <;> rfl
  | ss st =>
    refine ⟨rs, (responseRule_rxSs (by exact st)).trans (congrArg _ ?_)⟩
    unfold rxSsAnswer
    split <;> rfl
  | enable st => exact ⟨_, responseRule_rxEnable (s := s.withPorts ins rs) st⟩

section
variable {s : State} {a : Answer} {rest : List Input}

/-- A busy block of the invariants takes an answer; the ports keep the events to come and the configuration. -/
theorem step_takes_answer (hi : s.Inv) (busy : s.h.st ≠ .idle) (hin : s.inputs = .answer a :: rest) :
    ∃ t, step s = .next t ∧ t.inputs = rest ∧ t.params = s.params := by
  have ⟨⟨_, _, ⟨hdata, _⟩, _⟩, _⟩ := hi
  obtain ⟨i, hf, he⟩ := step_eq_exec_presented hi busy hin
  have room : s.h.st = .rxData → s.h.idx.toNat < 127 := fun hx => by have := hdata hx; omega
  obtain ⟨t, ht, -, -, params, inputs, -⟩ :=
    answeredFramesComplete i (s.presented a rest) a hf rfl (hi.inflight_of_busy busy) busy room
  exact ⟨t, he.trans ht, inputs, params⟩

/-- An answer does the same to the block whatever events follow it and whatever the channel holds. -/
theorem step_answer_withPorts {t : State} (hi : s.Inv) (busy : s.h.st ≠ .idle) (hin : s.inputs = .answer a :: rest)
    (h : step s = .next t) (ins : List Input) (rs : List Response) :
    ∃ rs', step (s.withPorts (.answer a :: ins) rs) = .next (t.withPorts ins rs') := by
  have ⟨_, _, ht⟩ := hi
  obtain ⟨i, hd⟩ := decodeFrame_txBytes_ok ht busy
  have fly : s.h.inflight = true := hi.inflight_of_busy busy
  rw [step_answer_eq_taken hin fly hd] at h
  obtain ⟨rs', hr⟩ := responseRule_withPorts ins rs h
  exact ⟨rs', (step_answer_eq_taken (s := s.withPorts (.answer a :: ins) rs) rfl fly hd).trans hr⟩

end

/-- A legal command word, accepted by an idle block with its own transaction or answered BUSY (R120). -/
theorem legal_of_commanded {w : CommandWord} {s t : State} (hl : legalOp (wordOp w)) (hc : Commanded w s t) :
    (s.h.st = .idle → t.h.st ≠ .idle ∧ t.h.pendOp = wordOp w ∧ t.responses = s.responses ∧
      t.bus = s.bus ++ [commandTransaction s.params w]) ∧
    (s.h.st ≠ .idle → t.h = s.h ∧ t.bus = s.bus ∧ t.responses = s.responses ++ [⟨wordOp w, .busy, 0x00#8⟩]) := by
  cases hc with
  | illegal no => exact absurd hl no
  | busy _ st => exact ⟨fun idle => absurd idle st, fun _ => ⟨rfl, rfl, rfl⟩⟩
  | register _ h5 idle =>
    refine ⟨fun _ => ?_, fun st => absurd idle st⟩
    rw [commandTransaction, if_neg h5]
    exact ⟨St.noConfusion, rfl, rfl, rfl⟩
  | session h5 idle =>
    refine ⟨fun _ => ?_, fun st => absurd idle st⟩
    rw [commandTransaction, if_pos h5]
    exact ⟨St.noConfusion, h5.symm, rfl, rfl⟩

/-- Settles O49: the command first only adds its BUSY to the channel, which the answer's step does not see; after the
answer it finds the block idle or busy. -/
theorem eitherOrderOfCommandAndAnswer : Obligations.EitherOrderOfCommandAndAnswer := by
  intro s w a rest hi busy hl
  have answerFirst : State.Inv { s with inputs := .answer a :: .command w :: rest } := hi
  obtain ⟨-, rejected, -⟩ :=
    commandWordAcceptance { s with inputs := .command w :: .answer a :: rest } w (.answer a :: rest) rfl
  obtain ⟨u1, hu1, uin, uparams⟩ := step_takes_answer answerFirst busy rfl
  obtain ⟨rs, ht2⟩ :=
    step_answer_withPorts answerFirst busy rfl hu1 rest (s.responses ++ [⟨wordOp w, .busy, 0x00#8⟩])
  obtain ⟨u2, hu2, hc⟩ := exec_decodeCommand w { u1 with inputs := rest }
  obtain ⟨accepted, answeredBusy⟩ := legal_of_commanded hl hc
  exact ⟨_, u1.withPorts rest rs, u1, u2, rejected hl busy, ht2, hu1, (step_of_command uin).trans hu2, rfl, rfl, rfl,
    rfl, uparams ▸ accepted, answeredBusy⟩

end Sys2Proof.Machine
end
